-- ==== Sys2Proof/Word.lean ====
section
/-! DEFINITION. The word types of the block (10_state.md R25, 20_memory.md R50). -/

namespace Sys2Proof

/-- A register, a data word of the bus: 32 bits (R50). -/
abbrev Word := BitVec 32

/-- A byte lane of the bus, and the width of SUB and of DUTY: 8 bits (R6, R50). -/
abbrev Byte := BitVec 8

/-- The access descriptor of 30_encoding.md R70: bit 8 is W, bits 7:6 are SIZE, bits 5:0 are OFF. -/
abbrev Descriptor := BitVec 9

end Sys2Proof
end

