-- ==== Sys2Proof/Access.lean ====
section
/-! DEFINITION. What reaches the block from outside, as plain data: the register names of its window (10_state.md R25),
the causes of an error response (60_exceptions.md R200) and the four events that trigger a step (10_state.md R37). -/

namespace Sys2Proof

/-- The ten registers of the window, in the order of their offsets (R25). -/
inductive Reg where
  | timeUs | timeMs | ticks | subtick | btnPoll | btnStatus | btnCtrl | duty | spk | wake
deriving DecidableEq, Repr

/-- The causes of an error response (R200). -/
inductive BusCause where
  /-- The access is not a word (code 1). -/
  | size
  /-- A word access with OFF[1:0] not 0b00 (code 2). -/
  | misaligned
  /-- An aligned word access to 0x28..0x3C (code 3). -/
  | unmapped
  /-- An aligned word access to a mapped register in the direction it does not have (code 4). -/
  | direction
deriving DecidableEq, Repr

/-- The events of R37. Each one triggers one atomic step. -/
inductive Event where
  /-- One unit of F_TB has elapsed (40_timebase.md R100). -/
  | tb
  /-- One bus access, legal or illegal. A read carries a write data word too, which nothing uses (R70). -/
  | bus (d : Descriptor) (wdata : Word)
  /-- The environment delivers the input level: `true` is high, the button released (41_button.md R130, R131). -/
  | pin (v : Bool)
  /-- The platform resets the block (70_reset_and_hazards.md R230). -/
  | reset
deriving DecidableEq, Repr, Inhabited

end Sys2Proof
end

