-- ==== Sys2Proof/Syntax.lean ====
section
/-! DEFINITION. The twelve operations of the block (30_encoding.md R72), one constructor per row of opcode_table.json.
A write carries its whole data word; which of its bits are used is said where they are read (R73). -/

namespace Sys2Proof

inductive Instr where
  /-- RD_TIME_US (40_timebase.md R110). -/
  | rdTimeUs
  /-- RD_TIME_MS (40_timebase.md R111). -/
  | rdTimeMs
  /-- RD_TICKS (40_timebase.md R112). -/
  | rdTicks
  /-- RD_SUBTICK (40_timebase.md R113). -/
  | rdSubtick
  /-- RD_BTN_POLL (41_button.md R140). -/
  | rdBtnPoll
  /-- RD_BTN_STATUS (41_button.md R141). -/
  | rdBtnStatus
  /-- WR_BTN_CTRL (41_button.md R142). -/
  | wrBtnCtrl (wdata : Word)
  /-- WR_DUTY (42_pwm.md R175). -/
  | wrDuty (wdata : Word)
  /-- RD_SPK (42_pwm.md R176). -/
  | rdSpk
  /-- WR_SPK (42_pwm.md R177). -/
  | wrSpk (wdata : Word)
  /-- RD_WAKE (41_button.md R151). -/
  | rdWake
  /-- WR_WAKE (41_button.md R152). -/
  | wrWake (wdata : Word)
deriving DecidableEq, Repr

end Sys2Proof
end

