-- ==== Sys2Proof/WellFormed.lean ====
section
/-! DEFINITION. When an access is legal, one check for each group of illegal descriptors of 30_encoding.md R75, written
from that table and from the access column of 10_state.md R25 (the decoder is written from the procedure of R71). -/

namespace Sys2Proof

/-- The access is a word (20_memory.md R52). -/
def sizeLegal (d : Descriptor) : Bool := d.extractLsb' 6 2 == 0b10#2

/-- The offset is word aligned (20_memory.md R53). -/
def alignLegal (d : Descriptor) : Bool := d.extractLsb' 0 2 == 0b00#2

/-- The offset is not one of the reserved 0x28..0x3F (10_state.md R36). -/
def mappedLegal (d : Descriptor) : Bool := (d.extractLsb' 0 6).toNat < 0x28

/-- The byte offsets of the registers that the access column of R25 lets be read. -/
def readableOffsets : List (BitVec 6) := [0x00, 0x04, 0x08, 0x0C, 0x10, 0x14, 0x20, 0x24]

/-- The byte offsets of the registers that the access column of R25 lets be written. -/
def writableOffsets : List (BitVec 6) := [0x18, 0x1C, 0x20, 0x24]

/-- The register at the offset has the direction of the access (R25). -/
def directionLegal (d : Descriptor) : Bool :=
  if d.getLsbD 8 then writableOffsets.contains (d.extractLsb' 0 6)
  else readableOffsets.contains (d.extractLsb' 0 6)

/-- A descriptor is legal when it is in none of the four groups of R75. -/
def Descriptor.wellFormed (d : Descriptor) : Bool :=
  sizeLegal d && alignLegal d && mappedLegal d && directionLegal d

/-- Every write data word is legal, its ignored bits having any value (30_encoding.md R73), and a read has no operand:
no operation has an ill-formed operand. -/
def Instr.wellFormed : Instr → Bool
  | .rdTimeUs => true
  | .rdTimeMs => true
  | .rdTicks => true
  | .rdSubtick => true
  | .rdBtnPoll => true
  | .rdBtnStatus => true
  | .wrBtnCtrl _ => true
  | .wrDuty _ => true
  | .rdSpk => true
  | .wrSpk _ => true
  | .rdWake => true
  | .wrWake _ => true

end Sys2Proof
end

