-- ==== Sys2Proof/Decode.lean ====
section
/-! DEFINITION. Decoding a bus access (30_encoding.md R70 to R72), total, an illegal access rejected by its cause; and the
encoder, written from the table of R72. -/

namespace Sys2Proof

/-- W: set for a write (R70). -/
def fieldW (d : Descriptor) : Bool := d.getLsbD 8

/-- SIZE (R70). -/
def fieldSize (d : Descriptor) : BitVec 2 := d.extractLsb' 6 2

/-- OFF, the byte offset in the window (R70). -/
def fieldOff (d : Descriptor) : BitVec 6 := d.extractLsb' 0 6

/-- The descriptor with the given fields (R70). -/
def descriptorOf (w : Bool) (size : BitVec 2) (off : BitVec 6) : Descriptor :=
  BitVec.ofBool w ++ size ++ off

/-- REGMAP: the register at word index OFF[5:2] (R71, 10_state.md R25); none past index 9. -/
def regAt : BitVec 4 → Option Reg
  | 0 => some .timeUs
  | 1 => some .timeMs
  | 2 => some .ticks
  | 3 => some .subtick
  | 4 => some .btnPoll
  | 5 => some .btnStatus
  | 6 => some .btnCtrl
  | 7 => some .duty
  | 8 => some .spk
  | 9 => some .wake
  | _ => none

/-- The byte offset of a register (10_state.md R25). -/
def Reg.offset : Reg → BitVec 6
  | .timeUs => 0x00
  | .timeMs => 0x04
  | .ticks => 0x08
  | .subtick => 0x0C
  | .btnPoll => 0x10
  | .btnStatus => 0x14
  | .btnCtrl => 0x18
  | .duty => 0x1C
  | .spk => 0x20
  | .wake => 0x24

/-- The read operation of a register, where its access column has R (10_state.md R25, R72). -/
def readInstr : Reg → Option Instr
  | .timeUs => some .rdTimeUs
  | .timeMs => some .rdTimeMs
  | .ticks => some .rdTicks
  | .subtick => some .rdSubtick
  | .btnPoll => some .rdBtnPoll
  | .btnStatus => some .rdBtnStatus
  | .btnCtrl => none
  | .duty => none
  | .spk => some .rdSpk
  | .wake => some .rdWake

/-- The write operation of a register, where its access column has W (10_state.md R25, R72). -/
def writeInstr (r : Reg) (wdata : Word) : Option Instr :=
  match r with
  | .timeUs => none
  | .timeMs => none
  | .ticks => none
  | .subtick => none
  | .btnPoll => none
  | .btnStatus => none
  | .btnCtrl => some (.wrBtnCtrl wdata)
  | .duty => some (.wrDuty wdata)
  | .spk => some (.wrSpk wdata)
  | .wake => some (.wrWake wdata)

/-- The last check of R71: the register has the direction of the access. -/
def decodeDirection (write : Bool) (r : Reg) (wdata : Word) : Except BusCause Instr :=
  match (if write then writeInstr r wdata else readInstr r) with
  | some i => .ok i
  | none => .error .direction

/-- The decode procedure of R71. When several causes apply the first in the order SIZE, MISALIGNED, UNMAPPED, DIRECTION
is reported. -/
def decode (d : Descriptor) (wdata : Word) : Except BusCause Instr :=
  if fieldSize d ≠ 0b10#2 then .error .size
  else if (fieldOff d).extractLsb' 0 2 ≠ 0b00#2 then .error .misaligned
  else if 0x28 ≤ (fieldOff d).toNat then .error .unmapped
  else
    match regAt ((fieldOff d).extractLsb' 2 4) with
    | some r => decodeDirection (fieldW d) r wdata
    | none => .error .unmapped

/-- The descriptor of an operation, from the table of R72. -/
def encodeDescriptor : Instr → Descriptor
  | .rdTimeUs => 0x080#9
  | .rdTimeMs => 0x084#9
  | .rdTicks => 0x088#9
  | .rdSubtick => 0x08C#9
  | .rdBtnPoll => 0x090#9
  | .rdBtnStatus => 0x094#9
  | .wrBtnCtrl _ => 0x198#9
  | .wrDuty _ => 0x19C#9
  | .rdSpk => 0x0A0#9
  | .wrSpk _ => 0x1A0#9
  | .rdWake => 0x0A4#9
  | .wrWake _ => 0x1A4#9

/-- The write data word an operation carries; a read carries none, and the encoder gives zero for it (R70). -/
def encodeData : Instr → Word
  | .rdTimeUs => 0
  | .rdTimeMs => 0
  | .rdTicks => 0
  | .rdSubtick => 0
  | .rdBtnPoll => 0
  | .rdBtnStatus => 0
  | .wrBtnCtrl wdata => wdata
  | .wrDuty wdata => wdata
  | .rdSpk => 0
  | .wrSpk wdata => wdata
  | .rdWake => 0
  | .wrWake wdata => wdata

/-- The access an operation is: its descriptor and its data word (R70, R72). -/
def encode (i : Instr) : Descriptor × Word := (encodeDescriptor i, encodeData i)

/-- A bus access written as one number of `nbits` bits: the descriptor in bits 8:0, bits 15:9 empty, the write data word
from bit 16 on. The spec gives an access no such layout (DESIGN CHOICE, log 3). None where an empty bit is set: the
bus has no line for it. -/
def transactionOf (nbits w : Nat) : Option (Descriptor × Word) :=
  let v := w % 2 ^ nbits
  if v / 2 ^ 9 % 2 ^ 7 = 0 then some (BitVec.ofNat 9 v, BitVec.ofNat 32 (v / 2 ^ 16)) else none

/-- The operation the decoder reads from an access written as one number; none where it is refused. -/
def decodeTableWord (nbits w : Nat) : Option Instr :=
  match transactionOf nbits w with
  | none => none
  | some (d, wdata) =>
    match decode d wdata with
    | .ok i => some i
    | .error _ => none

end Sys2Proof
end

