-- ==== Sys2Proof/Config.lean ====
section
/-! DEFINITION. The parameters of 00_scope.md R6, and the free values: opaque constants with no body, so that a
statement proved of the model holds whatever they are. -/

namespace Sys2Proof.Config

/-- TICK_PERIOD: timebase units per tick, 2^SUB_W (R6; log 7). -/
def tickPeriod : Nat := 256

/-- GUARD_US: the debounce guard interval in timebase units (R6, 41_button.md R133; log 7). -/
def guardUs : Nat := 3000

/-- F_TB: timebase units per second (R6). One unit is 1 µs. No rule depends on real time (70_reset_and_hazards.md R255;
log 7). -/
def timebaseHz : Nat := 1000000

/-- Timebase units per millisecond, the divisor of 40_timebase.md R103 (R255). -/
def unitsPerMs : Nat := 1000

/-- The size of the register window in bytes (R6, 10_state.md R25). -/
def windowBytes : Nat := 64

/-- FREE VALUE. Which 64-byte window of the platform's address space the block is at: TTCB_BASE is OPEN (R6; log 8). -/
opaque windowIndex : Nat

/-- TTCB_BASE, 64-byte aligned by construction (R6, 20_memory.md R57; log 8). -/
def ttcbBase : Nat := windowBytes * windowIndex

/-- FREE VALUE. TB_RUNS_IN_SLEEP: whether timebase steps occur while the CPU is halted, OPEN (R6, 10_state.md R38; log 9). -/
opaque tbRunsInSleep : Bool

/-- FREE VALUE. The launch draw `pin0`: the input level before the first PIN(v) event (10_state.md R43; log 5). -/
opaque pin0 : Bool

/-- FREE VALUE. The events that come where State lists none: any event may occur next, in any order (10_state.md R37;
log 2). -/
opaque environment : Nat → Event

end Sys2Proof.Config
end

