-- ==== Sys2Proof/Machine/State.lean ====
section
/-! DEFINITION. The state of the block (10_state.md R20), the model's own fields beside it, the reasons a step can stop, and
the state after reset (R42 to R44). -/

namespace Sys2Proof.Machine

/-- Button Status (R14, R30; its 2-bit code is `ButtonStatus.code`). -/
inductive ButtonStatus where
  | idle | pressed | held | released
deriving DecidableEq, Repr

/-- The complete state of a TTCB: the nine fields of R20, and no other. -/
structure Block where
  /-- TICKS, the tick counter. -/
  ticks : Word
  /-- SUB, the sub-tick counter. -/
  sub : Byte
  /-- STATUS, the debounced Button Status. -/
  status : ButtonStatus
  /-- LAST, the TIME_US value of the last accepted sample. -/
  last : Word
  /-- PIN, the raw input level: `true` is high, the button released. -/
  pin : Bool
  /-- DUTY, the shared duty-cycle register. -/
  duty : Byte
  /-- SPK_EN, the speaker drive enable. -/
  spkEn : Bool
  /-- ARM, the wake-edge interrupt mask: `true` is armed. -/
  arm : Bool
  /-- PEND, the wake interrupt pending flag. -/
  pend : Bool
deriving DecidableEq, Repr

/-- What a read puts on the bus: the register it read and the data word (30_encoding.md R70, R74). -/
structure Response where
  reg : Reg
  rdata : Word
deriving DecidableEq, Repr

/-- The block, and three fields of the model's own. -/
structure State where
  /-- The block's state (R20). -/
  block : Block
  /-- The answer of the step that led here, where it was a read (log 4). -/
  resp : Option Response
  /-- The events delivered to the block and not yet performed, oldest first (R37, R40; log 1). -/
  pending : List Event
  /-- How many events the free environment has given (log 2). -/
  envIndex : Nat
deriving DecidableEq, Repr

/-- The reasons a step faults. -/
inductive Fault where
  /-- The error response of an illegal access (60_exceptions.md R200), raised by `raiseBusError` alone. The block is as it
  was (R202). SAFE: the model stops where a bus master may go on (R200; log 6). -/
  | busError (cause : BusCause)
deriving DecidableEq, Repr

/-- The reasons a step, or a bus primitive, has no meaning. -/
inductive Refusal where
  /-- An operation without a meaning: no arm of `exec` answers it. SAFE. -/
  | notModelled (mnemonic : String)
  /-- `memRead`, `memWrite` or `fetch` at an address outside the window: the access belongs to the platform
  (20_memory.md R57). No step answers it. SAFE (log 8). -/
  | notSelected
deriving DecidableEq, Repr

/-- The launch state: a RESET step has been performed (R42, R44), the input level is the launch draw (R43; log 5),
nothing has been delivered yet. -/
def State.reset : State where
  block :=
    { ticks := 0, sub := 0, status := .idle, last := 0, pin := Config.pin0, duty := 0, spkEn := false, arm := false,
      pend := false }
  resp := none
  pending := []
  envIndex := 0

end Sys2Proof.Machine
end

