-- ==== Sys2Proof/Machine/Operands.lean ====
section
/-! DEFINITION. The derived time values (00_scope.md R12), which bits of a write data word are used (30_encoding.md R73) and
how a read data word is assembled (R74). Nothing is sign-extended, scaled or shifted (R73). -/

namespace Sys2Proof.Machine

/-- T: the full time value of 40 bits (40_timebase.md R101). -/
def fullTime (b : Block) : Nat := b.ticks.toNat * Config.tickPeriod + b.sub.toNat

/-- us: the microsecond time, T mod 2^32 (40_timebase.md R102). -/
def us (b : Block) : Word := BitVec.ofNat 32 (fullTime b)

/-- ms: the millisecond time, (T div 1000) mod 2^32, from the full T (40_timebase.md R103). -/
def ms (b : Block) : Word := BitVec.ofNat 32 (fullTime b / Config.unitsPerMs)

/-- The 2-bit code of Button Status (10_state.md R30). -/
def ButtonStatus.code : ButtonStatus → BitVec 2
  | .idle => 0b00
  | .pressed => 0b01
  | .held => 0b10
  | .released => 0b11

/-- WR_BTN_CTRL: wdata[0] is RESET. -/
def btnResetBit (wdata : Word) : Bool := wdata.getLsbD 0

/-- WR_DUTY: wdata[7:0] is the new DUTY. -/
def dutyField (wdata : Word) : Byte := wdata.extractLsb' 0 8

/-- WR_SPK: wdata[0] is the new SPK_EN. -/
def spkBit (wdata : Word) : Bool := wdata.getLsbD 0

/-- WR_WAKE: wdata[0] is the new ARM. -/
def armBit (wdata : Word) : Bool := wdata.getLsbD 0

/-- WR_WAKE: wdata[1] = 1 clears PEND. -/
def pendClearBit (wdata : Word) : Bool := wdata.getLsbD 1

/-- RD_SUBTICK: zext_32(SUB). -/
def subtickWord (sub : Byte) : Word := sub.setWidth 32

/-- RD_BTN_POLL and RD_BTN_STATUS: 29 zero bits, PIN, STATUS. -/
def buttonWord (pin : Bool) (st : ButtonStatus) : Word := 0#29 ++ BitVec.ofBool pin ++ st.code

/-- RD_SPK: 31 zero bits, SPK_EN. -/
def spkWord (spkEn : Bool) : Word := 0#31 ++ BitVec.ofBool spkEn

/-- RD_WAKE: 30 zero bits, PEND, ARM. -/
def wakeWord (pend arm : Bool) : Word := 0#30 ++ BitVec.ofBool pend ++ BitVec.ofBool arm

/-- The code of an error response (60_exceptions.md R200). -/
def causeCode : BusCause → Nat
  | .size => 1
  | .misaligned => 2
  | .unmapped => 3
  | .direction => 4

/-- Lane k of a data word: bits [8k+7:8k], the byte at address TTCB_BASE + off + k (20_memory.md R50). -/
def byteLane (v : Word) (k : Fin 4) : Byte := v.extractLsb' (8 * k) 8

/-- The data word on the four lanes, lane 0 the least significant (20_memory.md R50). -/
def wordOfLanes (l0 l1 l2 l3 : Byte) : Word := l3 ++ l2 ++ l1 ++ l0

end Sys2Proof.Machine
end

