-- ==== Sys2Proof/Machine/Flags.lean ====
section
/-! DEFINITION. The block has no flags or condition codes (10_state.md R23). What it computes as one bit stands here: the
acceptance of a poll (41_button.md R133) and the outputs (10_state.md R39). -/

namespace Sys2Proof.Machine

/-- The time since the last accepted sample, modulo 2^32 (41_button.md R133). -/
def elapsed (b : Block) : Word := us b - b.last

/-- A poll is accepted when the elapsed time is at least the guard interval (41_button.md R133). -/
def accepted (b : Block) : Bool := Config.guardUs ≤ (elapsed b).toNat

/-- The PWM compare SUB < DUTY, the output pwm_o (42_pwm.md R170). -/
def pwm (b : Block) : Bool := b.sub.toNat < b.duty.toNat

/-- led_o, whatever SPK_EN is (42_pwm.md R171). -/
def ledO (b : Block) : Bool := pwm b

/-- spk_o (42_pwm.md R172). -/
def spkO (b : Block) : Bool := pwm b

/-- spk_oe, the speaker pin's output enable (42_pwm.md R172). -/
def spkOe (b : Block) : Bool := b.spkEn

/-- The level the block drives on the speaker pad, none where it does not drive it (42_pwm.md R172; log 13). -/
def spkPad (b : Block) : Option Bool := if spkOe b then some (spkO b) else none

/-- wake_irq, a level (41_button.md R153). -/
def wakeIrq (b : Block) : Bool := b.pend

end Sys2Proof.Machine
end

