-- ==== Sys2Proof/Machine/Ops.lean ====
section
/-! DEFINITION. The shared ways a step ends: a read answers, a write completes, an event changes the block, an illegal
access gets the error response. The reset of the block (70_reset_and_hazards.md R230). -/

namespace Sys2Proof.Machine

/-- A read of register `r` answers `v`, the block being `b` after it (30_encoding.md R70, R74). -/
def respond (r : Reg) (v : Word) (b : Block) (s : State) : Host.Outcome State Fault Refusal :=
  .next { s with block := b, resp := some { reg := r, rdata := v } }

/-- A step that answers no data ends with the block `b` (a write, and every event that is no access). -/
def complete (b : Block) (s : State) : Host.Outcome State Fault Refusal :=
  .next { s with block := b, resp := none }

/-- Taking the block's only exception: the error response. It saves nothing, records nothing and changes no state
(60_exceptions.md R200, R202, R208); the model treats it as a fault of the step (00_scope.md R11, R200). There is no
return from it (R209). -/
def raiseBusError (cause : BusCause) : Host.Outcome State Fault Refusal := .fault (.busError cause)

/-- RESET: every field but PIN takes its reset value (70_reset_and_hazards.md R230, 10_state.md R42, R43). -/
def resetBlock (b : Block) : Block :=
  { b with
    ticks := 0, sub := 0, status := .idle, last := 0, duty := 0, spkEn := false, arm := false, pend := false }

end Sys2Proof.Machine
end

