-- ==== Sys2Proof/Machine/Button.lean ====
section
/-! DEFINITION. The debouncer (41_button.md R132 to R142). -/

namespace Sys2Proof.Machine

/-- next_status: the Button Status after an accepted sample (R132). -/
def nextStatus : ButtonStatus → (pin : Bool) → ButtonStatus
  | .idle, false => .pressed
  | .idle, true => .idle
  | .pressed, false => .held
  | .pressed, true => .released
  | .held, false => .held
  | .held, true => .released
  | .released, _ => .idle

/-- The poll procedure: an accepted sample updates STATUS and restarts the guard, even where STATUS does not change; a
rejected one changes nothing (R134). -/
def poll (b : Block) : Block :=
  if accepted b then { b with status := nextStatus b.status b.pin, last := us b } else b

/-- The debouncer reset (R142). -/
def btnReset (b : Block) : Block := { b with status := .idle, last := us b }

/-- RD_BTN_POLL: one poll, then PIN and the status after it (R140). -/
def execRdBtnPoll (s : State) : Host.Outcome State Fault Refusal :=
  respond .btnPoll (buttonWord s.block.pin (poll s.block).status) (poll s.block) s

/-- RD_BTN_STATUS: PIN and STATUS, without a poll (R141). -/
def execRdBtnStatus (s : State) : Host.Outcome State Fault Refusal :=
  respond .btnStatus (buttonWord s.block.pin s.block.status) s.block s

/-- WR_BTN_CTRL: bit 0 set resets the debouncer, bit 0 clear has no effect (R142, 10_state.md R32). -/
def execWrBtnCtrl (wdata : Word) (s : State) : Host.Outcome State Fault Refusal :=
  complete (if btnResetBit wdata then btnReset s.block else s.block) s

end Sys2Proof.Machine
end

