-- ==== Sys2Proof/Machine/Pwm.lean ====
section
/-! DEFINITION. The PWM duty register and the speaker enable (42_pwm.md R175 to R177). The two are independent and nothing is
arbitrated (R174); a write takes effect in the next state (R178). -/

namespace Sys2Proof.Machine

/-- WR_DUTY: the value is truncated, not saturated (R175). -/
def execWrDuty (wdata : Word) (s : State) : Host.Outcome State Fault Refusal :=
  complete { s.block with duty := dutyField wdata } s

/-- RD_SPK (R176). -/
def execRdSpk (s : State) : Host.Outcome State Fault Refusal :=
  respond .spk (spkWord s.block.spkEn) s.block s

/-- WR_SPK (R177). -/
def execWrSpk (wdata : Word) (s : State) : Host.Outcome State Fault Refusal :=
  complete { s.block with spkEn := spkBit wdata } s

end Sys2Proof.Machine
end

