-- ==== Sys2Proof/Machine/Timebase.lean ====
section
/-! DEFINITION. The timebase (40_timebase.md): the TB step and the four reads of the counters. -/

namespace Sys2Proof.Machine

/-- One timebase unit: SUB counts, and its wrap advances TICKS in the same step (R100). Overflow wraps silently
(R104). -/
def tbBlock (b : Block) : Block :=
  if b.sub = 255 then { b with sub := 0, ticks := b.ticks + 1 } else { b with sub := b.sub + 1 }

/-- RD_TIME_US (R110). -/
def execRdTimeUs (s : State) : Host.Outcome State Fault Refusal :=
  respond .timeUs (us s.block) s.block s

/-- RD_TIME_MS (R111). -/
def execRdTimeMs (s : State) : Host.Outcome State Fault Refusal :=
  respond .timeMs (ms s.block) s.block s

/-- RD_TICKS (R112). -/
def execRdTicks (s : State) : Host.Outcome State Fault Refusal :=
  respond .ticks s.block.ticks s.block s

/-- RD_SUBTICK (R113). -/
def execRdSubtick (s : State) : Host.Outcome State Fault Refusal :=
  respond .subtick (subtickWord s.block.sub) s.block s

end Sys2Proof.Machine
end

