-- ==== Sys2Proof/Machine/Wake.lean ====
section
/-! DEFINITION. The input line and the wake-edge detector (41_button.md R130, R150 to R156). -/

namespace Sys2Proof.Machine

/-- Firing the wake interrupt: the mask is disarmed and the flag set, and nothing else changes (R150, R155). -/
def fireWake (b : Block) : Block := { b with arm := false, pend := true }

/-- PIN(v): a change of level while armed fires, in either direction; the level is taken (R130, R150). -/
def pinBlock (v : Bool) (b : Block) : Block :=
  { (if v != b.pin && b.arm then fireWake b else b) with pin := v }

/-- RD_WAKE (R151). -/
def execRdWake (s : State) : Host.Outcome State Fault Refusal :=
  respond .wake (wakeWord s.block.pend s.block.arm) s.block s

/-- WR_WAKE: bit 0 is the new ARM, bit 1 clears PEND where it is 1 (R152). -/
def execWrWake (wdata : Word) (s : State) : Host.Outcome State Fault Refusal :=
  complete { s.block with arm := armBit wdata, pend := s.block.pend && !pendClearBit wdata } s

end Sys2Proof.Machine
end

