-- ==== Sys2Proof/Machine/Dispatch.lean ====
section
/-! DEFINITION. One arm per operation of 30_encoding.md R72. -/

namespace Sys2Proof.Machine

def exec (i : Instr) (s : State) : Host.Outcome State Fault Refusal :=
  match i with
  | .rdTimeUs => Sys2Proof.Machine.execRdTimeUs s
  | .rdTimeMs => Sys2Proof.Machine.execRdTimeMs s
  | .rdTicks => Sys2Proof.Machine.execRdTicks s
  | .rdSubtick => Sys2Proof.Machine.execRdSubtick s
  | .rdBtnPoll => Sys2Proof.Machine.execRdBtnPoll s
  | .rdBtnStatus => Sys2Proof.Machine.execRdBtnStatus s
  | .wrBtnCtrl wdata => Sys2Proof.Machine.execWrBtnCtrl wdata s
  | .wrDuty wdata => Sys2Proof.Machine.execWrDuty wdata s
  | .rdSpk => Sys2Proof.Machine.execRdSpk s
  | .wrSpk wdata => Sys2Proof.Machine.execWrSpk wdata s
  | .rdWake => Sys2Proof.Machine.execRdWake s
  | .wrWake wdata => Sys2Proof.Machine.execWrWake wdata s

end Sys2Proof.Machine
end

