-- ==== Sys2Proof/Machine/Bus.lean ====
section
/-! DEFINITION. Performing an event (10_state.md R37), and the bus primitives MemRead and MemWrite (00_scope.md R11). -/

namespace Sys2Proof.Machine

/-- One bus access: decoded, then performed, or answered with the error response (30_encoding.md R71). -/
def access (d : Descriptor) (wdata : Word) (s : State) : Host.Outcome State Fault Refusal :=
  match decode d wdata with
  | .ok i => exec i s
  | .error cause => raiseBusError cause

/-- One atomic step, triggered by one event (10_state.md R37). -/
def perform (e : Event) (s : State) : Host.Outcome State Fault Refusal :=
  match e with
  | .tb => complete (tbBlock s.block) s
  | .bus d wdata => access d wdata s
  | .pin v => complete (pinBlock v s.block) s
  | .reset => complete (resetBlock s.block) s

/-- The event the next step performs: the oldest one delivered, or what the free environment gives (log 1, log 2). -/
def nextEvent (s : State) : Event :=
  match s.pending with
  | e :: _ => e
  | [] => Config.environment s.envIndex

/-- The state with the next event taken from where it waits (log 1, log 2). -/
def takeEvent (s : State) : State :=
  match s.pending with
  | _ :: es => { s with pending := es }
  | [] => { s with envIndex := s.envIndex + 1 }

/-- The SIZE code of an access of `n` bytes (R70). Of the sizes only 4 is legal (20_memory.md R52); a size R70 gives no
code to takes the reserved code, so that it gets the same error response (DEDUCED, log 10). -/
def sizeCode (n : Nat) : BitVec 2 :=
  if n = 1 then 0b00 else if n = 2 then 0b01 else if n = 4 then 0b10 else 0b11

/-- The address is in the block's window (20_memory.md R57). -/
def selected (addr : Nat) : Bool := Config.ttcbBase ≤ addr && addr < Config.ttcbBase + Config.windowBytes

/-- OFF of an address in the window (R11, 30_encoding.md R70). -/
def offsetOf (addr : Nat) : BitVec 6 := BitVec.ofNat 6 (addr - Config.ttcbBase)

/-- The descriptor of an access of `n` bytes at an address in the window (R11, 30_encoding.md R70). -/
def descriptorAt (write : Bool) (addr n : Nat) : Descriptor :=
  descriptorOf write (sizeCode n) (offsetOf addr)

/-- MemRead(addr, n) (R11). Outside the window the access is the platform's (20_memory.md R57; log 8). -/
def memRead (addr n : Nat) (s : State) : Host.Outcome State Fault Refusal :=
  if selected addr then access (descriptorAt false addr n) 0 s else .refused .notSelected

/-- MemWrite(addr, n, v) (R11). -/
def memWrite (addr n : Nat) (v : Word) (s : State) : Host.Outcome State Fault Refusal :=
  if selected addr then access (descriptorAt true addr n) v s else .refused .notSelected

/-- The block cannot tell a fetch from a data read (20_memory.md R51): a fetch at 0x10 polls. -/
def fetch (addr n : Nat) (s : State) : Host.Outcome State Fault Refusal := memRead addr n s

end Sys2Proof.Machine
end

