-- ==== Sys2Proof/Machine/Step.lean ====
section
/-! DEFINITION. The step, and the placing of an access where the next step performs it. -/

namespace Sys2Proof.Machine

/-- One step: the next event is taken and performed (10_state.md R37, 20_memory.md R59). -/
def step (s : State) : Host.Outcome State Fault Refusal := perform (nextEvent s) (takeEvent s)

/-- `s` with the bus access written as the number `w` (see `transactionOf`) delivered ahead of every other event, so that
the next step performs it. It stands for the host issuing that access now (log 3). Where `w` is no access, nothing is
delivered. -/
def State.withFetchWord (s : State) (nbits w : Nat) : State :=
  match transactionOf nbits w with
  | some (d, wdata) => { s with pending := .bus d wdata :: s.pending }
  | none => s

end Sys2Proof.Machine
end

