-- ==== Sys2Proof/Machine/Platform.lean ====
section
/-! DEFINITION. What the spec asks of the platform around the block's halt-related interface: whether timebase units occur
while the CPU is halted (10_state.md R38, 60_exceptions.md R216) and how wake_irq ends a halt (R206). The CPU itself is out
of scope (00_scope.md R5); only its halt is held here, beside the machine, never in the block (log 9). -/

namespace Sys2Proof.Machine

/-- The machine and the CPU's low-power halt. -/
structure Platform where
  machine : State
  cpuHalted : Bool
deriving DecidableEq, Repr

/-- What happens on the platform. Time passes in units of F_TB; whether a unit reaches the block is the platform's. -/
inductive PlatformEvent where
  /-- One unit of F_TB of real time passes. -/
  | unit
  /-- The CPU enters its low-power halt. -/
  | halt
  /-- A bus access reaches the block. -/
  | bus (d : Descriptor) (wdata : Word)
  /-- The input level is delivered. -/
  | pin (v : Bool)
  /-- The block is reset. -/
  | reset
deriving DecidableEq, Repr

/-- The event a platform event is to the block; none where the block sees nothing. A unit is a TB event unless the CPU is
halted and the timebase does not run in the halt (R38, R216). -/
def blockEvent (halted : Bool) : PlatformEvent → Option Event
  | .unit => if halted && !Config.tbRunsInSleep then none else some .tb
  | .halt => none
  | .bus d wdata => some (.bus d wdata)
  | .pin v => some (.pin v)
  | .reset => some .reset

/-- The CPU is halted after the event unless wake_irq, a level, ends or prevents the halt (R206). R206 says `at once` of a
wake_irq already asserted when the CPU halts; that one asserted later ends the halt in the very step that asserts it, with
no wake latency, is the model's (DESIGN CHOICE, log 16). -/
def haltAfter (halted : Bool) (e : PlatformEvent) (b : Block) : Bool :=
  (halted || e == .halt) && !wakeIrq b

/-- One platform event. The halt itself changes no field of the block (R216). -/
def platformStep (e : PlatformEvent) (p : Platform) : Host.Outcome Platform Fault Refusal :=
  match blockEvent p.cpuHalted e with
  | none => .next { p with cpuHalted := haltAfter p.cpuHalted e p.machine.block }
  | some ev =>
    match perform ev p.machine with
    | .next m => .next { machine := m, cpuHalted := haltAfter p.cpuHalted e m.block }
    | .fault r => .fault r
    | .refused r => .refused r

end Sys2Proof.Machine
end

