-- ==== Sys2Proof/Machine/Script.lean ====
section
/-! DEFINITION. The host script of 30_encoding.md R77 to R79: block operations, the pseudo-instructions, the directives. A
script is a host program; its variables and its schedule are the host's, not the block's (R77, R79). -/

namespace Sys2Proof.Machine

/-- The pseudo-instructions of R78. -/
inductive Pseudo where
  | nowMicros | nowMillis | poll | peek | btnReset
  | setBrightness (level : Word)
  | speakerOn | speakerOff | wakeArm | wakeAck | wakeDisarm
deriving DecidableEq, Repr

/-- Each pseudo-instruction expands to exactly one block operation (R78). -/
def Pseudo.expand : Pseudo → Instr
  | .nowMicros => .rdTimeUs
  | .nowMillis => .rdTimeMs
  | .poll => .rdBtnPoll
  | .peek => .rdBtnStatus
  | .btnReset => .wrBtnCtrl 1
  | .setBrightness level => .wrDuty level
  | .speakerOn => .wrSpk 1
  | .speakerOff => .wrSpk 0
  | .wakeArm => .wrWake 3
  | .wakeAck => .wrWake 2
  | .wakeDisarm => .wrWake 0

/-- A term of a condition: a constant, a host variable, a bit slice v[hi:lo] of one (R79). Host variables are numbered. -/
inductive Term where
  | const (k : Nat)
  | var (v : Nat)
  | slice (v hi lo : Nat)
deriving DecidableEq, Repr

/-- A condition over host variables (R79). -/
inductive Cond where
  | eq (x y : Term)
  | ne (x y : Term)
deriving DecidableEq, Repr

/-- One line of a script (R77, R78, R79). -/
inductive Line where
  /-- `rd NAME -> v`: a word read of the register; of a write-only one it spells an illegal access (R77). -/
  | rd (r : Reg) (bind : Option Nat)
  /-- `wr NAME, imm`: a word write of the register; of a read-only one it spells an illegal access (R77). -/
  | wr (r : Reg) (imm : Word)
  /-- A pseudo-instruction, its rdata bound where it reads (R78). -/
  | pseudo (p : Pseudo) (bind : Option Nat)
  /-- `wait n`: n TB events. -/
  | wait (n : Nat)
  /-- `pin v`: one PIN(v) event. -/
  | pin (v : Bool)
  /-- `reset`: one RESET event. -/
  | reset
  /-- `env at T: pin v`: a PIN(v) event after the T-th TB event since the last reset. -/
  | envAt (t : Nat) (v : Bool)
deriving DecidableEq, Repr

/-- A script: lines in order, and `repeat body until cond`. -/
inductive Script where
  | done
  | line (l : Line) (rest : Script)
  | repeatUntil (body : Script) (cond : Cond) (rest : Script)
deriving DecidableEq, Repr

/-- A run of a script: the machine, the host's variables, the TB events since the last reset and the pin events
scheduled. -/
structure ScriptState where
  machine : State
  vars : List (Nat × Word)
  tbs : Nat
  schedule : List (Nat × Bool)
deriving DecidableEq, Repr

/-- How a script ends. A fault keeps the state at the fault, as 95_test_vectors.md P6 gives it. -/
inductive ScriptResult where
  | finished (st : ScriptState)
  | faulted (r : Fault) (st : ScriptState)
  | refused (r : Refusal) (st : ScriptState)
  /-- The loop has not ended within the rounds given: it may be stuck (70_reset_and_hazards.md R235). -/
  | outOfFuel
deriving DecidableEq, Repr

/-- One event delivered by the script. -/
def ScriptState.deliver (e : Event) (st : ScriptState) : ScriptResult :=
  match perform e st.machine with
  | .next m => .finished { st with machine := m }
  | .fault r => .faulted r st
  | .refused r => .refused r st

/-- The value of a host variable, 0 where nothing has bound it (log 11). -/
def ScriptState.lookup (st : ScriptState) (v : Nat) : Word :=
  match st.vars.find? (fun p => p.1 == v) with
  | some p => p.2
  | none => 0

def Term.eval (st : ScriptState) : Term → Nat
  | .const k => k
  | .var v => (st.lookup v).toNat
  | .slice v hi lo => (st.lookup v).toNat / 2 ^ lo % 2 ^ (hi + 1 - lo)

def Cond.holds (st : ScriptState) : Cond → Bool
  | .eq x y => x.eval st == y.eval st
  | .ne x y => x.eval st != y.eval st

/-- A read binds its rdata where it names a variable (R77). -/
def ScriptState.bindResp (bind : Option Nat) (st : ScriptState) : ScriptState :=
  match bind, st.machine.resp with
  | some v, some r => { st with vars := (v, r.rdata) :: st.vars }
  | _, _ => st

def ScriptResult.andThen (r : ScriptResult) (f : ScriptState → ScriptResult) : ScriptResult :=
  match r with
  | .finished st => f st
  | .faulted e st => .faulted e st
  | .refused e st => .refused e st
  | .outOfFuel => .outOfFuel

/-- Of the pin events given, those scheduled for this time are delivered, oldest first, and the others scheduled again:
each line schedules one event (R79; log 11). -/
def deliverDue : List (Nat × Bool) → ScriptState → ScriptResult
  | [], st => .finished st
  | (t, v) :: rest, st =>
    if t = st.tbs then (st.deliver (.pin v)).andThen (deliverDue rest)
    else deliverDue rest { st with schedule := st.schedule ++ [(t, v)] }

/-- n TB events with no bus access between them; a scheduled pin event comes right after its TB event (R79). -/
def waitUnits : Nat → ScriptState → ScriptResult
  | 0, st => .finished st
  | n + 1, st =>
    ((st.deliver .tb).andThen fun st' =>
      deliverDue st.schedule { st' with tbs := st.tbs + 1, schedule := [] }).andThen (waitUnits n)

/-- The event a block operation of the script is (R77). -/
def accessEvent (write : Bool) (r : Reg) (wdata : Word) : Event :=
  .bus (descriptorOf write 0b10 r.offset) wdata

def runLine (l : Line) (st : ScriptState) : ScriptResult :=
  match l with
  | .rd r bind => (st.deliver (accessEvent false r 0)).andThen fun st' => .finished (st'.bindResp bind)
  | .wr r imm => st.deliver (accessEvent true r imm)
  | .pseudo p bind =>
    (st.deliver (.bus (encodeDescriptor p.expand) (encodeData p.expand))).andThen fun st' =>
      .finished (st'.bindResp bind)
  | .wait n => waitUnits n st
  | .pin v => st.deliver (.pin v)
  | .reset => (st.deliver .reset).andThen fun st' => deliverDue st.schedule { st' with tbs := 0, schedule := [] }
  | .envAt t v =>
    if t = st.tbs then st.deliver (.pin v) else .finished { st with schedule := st.schedule ++ [(t, v)] }

/-- A script run for at most `fuel` lines and loop rounds deep: a loop runs its body, then tests its condition, and repeats
while it is false (R79). -/
def runScript : (fuel : Nat) → Script → ScriptState → ScriptResult
  | 0, _, _ => .outOfFuel
  | _ + 1, .done, st => .finished st
  | fuel + 1, .line l rest, st => (runLine l st).andThen (runScript fuel rest)
  | fuel + 1, .repeatUntil body cond rest, st =>
    (runScript fuel body st).andThen fun st' =>
      if cond.holds st' then runScript fuel rest st' else runScript fuel (.repeatUntil body cond rest) st'

end Sys2Proof.Machine
end

