-- ==== Sys2Proof/Safety.lean ====
section
/-! DEFINITION. The terms claims are stated in: runs of the machine over delivered events, what an event does, and what a run
shows (accepted samples, entries of Button Status, firings, high units of the PWM). -/

namespace Sys2Proof.Safety

open Sys2Proof Sys2Proof.Machine

/-- The events `es` delivered ahead of those already waiting, in this order (20_memory.md R59). -/
def deliver (es : List Event) (s : State) : State := { s with pending := es ++ s.pending }

/-- The machine, `es` delivered, performs exactly those events without a fault and is then in state `t`. -/
def RunsTo (es : List Event) (s t : State) : Prop :=
  Host.Core.run Sys2Proof.core es.length (deliver es s) = Host.Outcome.next t

/-- The legal operation an event performs, where it is one. -/
def opOf : Event → Option Instr
  | .bus d wdata =>
    match decode d wdata with
    | .ok i => some i
    | .error _ => none
  | .tb => none
  | .pin _ => none
  | .reset => none

/-- An access of the event's, if any, is legal (30_encoding.md R75). -/
def legalEvent : Event → Bool
  | .bus d _ => Descriptor.wellFormed d
  | .tb => true
  | .pin _ => true
  | .reset => true

/-- The event is a poll (41_button.md R140). -/
def isPoll (e : Event) : Bool := opOf e == some .rdBtnPoll

/-- The event is a PIN(v) event. -/
def isPin : Event → Bool
  | .pin _ => true
  | .tb => false
  | .bus _ _ => false
  | .reset => false

/-- The event resets the debouncer: a BTN_CTRL reset or RESET (41_button.md R136, R142). -/
def restartsDebouncer (e : Event) : Bool :=
  e == .reset ||
    match opOf e with
    | some (.wrBtnCtrl wdata) => btnResetBit wdata
    | _ => false

/-- The event writes ARM = 1 (41_button.md R152, R154). -/
def armsWake (e : Event) : Bool :=
  match opOf e with
  | some (.wrWake wdata) => armBit wdata
  | _ => false

/-- The event clears PEND: a WAKE write with bit 1 set or RESET (41_button.md R153). -/
def clearsPend (e : Event) : Bool :=
  e == .reset ||
    match opOf e with
    | some (.wrWake wdata) => pendClearBit wdata
    | _ => false

/-- The event writes DUTY: WR_DUTY or RESET (42_pwm.md R170, R175). -/
def setsDuty (e : Event) : Bool :=
  e == .reset ||
    match opOf e with
    | some (.wrDuty _) => true
    | _ => false

/-- The number of TB events among `es` (10_state.md R38: time is counted only by them). -/
def tbCount (es : List Event) : Nat := es.countP (· == .tb)

/-- The wake interrupt fires in this step: an armed change of level (41_button.md R150). -/
def firesIn (e : Event) (s : State) : Bool :=
  match e with
  | .pin v => v != s.block.pin && s.block.arm
  | .tb => false
  | .bus _ _ => false
  | .reset => false

/-- What `f` says of each event and the state it is performed in, along the run of `es` from `s`. -/
def along {α : Type} (f : Event → State → List α) : List Event → State → List α
  | [], _ => []
  | e :: es, s =>
    match perform e s with
    | .next t => f e s ++ along f es t
    | .fault _ => []
    | .refused _ => []

/-- The accepted samples of a run, oldest first: the status before and the level sampled (41_button.md R133, R134). -/
def samples : List Event → State → List (ButtonStatus × Bool) :=
  along fun e s => if isPoll e && accepted s.block then [(s.block.status, s.block.pin)] else []

/-- How often STATUS enters `st` in a run: accepted polls that change STATUS to it (41_button.md R136). -/
def entriesInto (st : ButtonStatus) (es : List Event) (s : State) : Nat :=
  ((samples es s).filter fun x => x.1 != st && nextStatus x.1 x.2 == st).length

/-- How often the wake interrupt fires in a run (41_button.md R150). -/
def firings (es : List Event) (s : State) : Nat :=
  (along (fun e s => if firesIn e s then [()] else []) es s).length

/-- The timebase units of a run during which pwm_o is 1 (42_pwm.md R170): a unit has the level of the state its TB event
ends. -/
def highUnits (es : List Event) (s : State) : Nat :=
  (along (fun e s => if e == .tb && pwm s.block then [()] else []) es s).length

/-- The input level after the events, `v` before them. -/
def levelAfter (v : Bool) : List Event → Bool
  | [] => v
  | .pin w :: es => levelAfter w es
  | .tb :: es => levelAfter v es
  | .bus _ _ :: es => levelAfter v es
  | .reset :: es => levelAfter v es

/-- The events with every level they deliver made high: the same run of the world without the press. -/
def withoutPress : List Event → List Event :=
  List.map fun e => if isPin e then .pin true else e

/-- The content of a readable register (10_state.md R25, 30_encoding.md R74); none for a write-only one. -/
def registerWord (b : Block) : Reg → Option Word
  | .timeUs => some (b.ticks.extractLsb' 0 24 ++ b.sub)
  | .timeMs => some (BitVec.ofNat 32 ((b.ticks ++ b.sub).toNat / 1000))
  | .ticks => some b.ticks
  | .subtick => some (0#24 ++ b.sub)
  | .btnPoll => some ((BitVec.ofBool b.pin ++ b.status.code).setWidth 32)
  | .btnStatus => some ((BitVec.ofBool b.pin ++ b.status.code).setWidth 32)
  | .btnCtrl => none
  | .duty => none
  | .spk => some (if b.spkEn then 1 else 0)
  | .wake => some ((if b.pend then 2 else 0) + (if b.arm then 1 else 0))

/-- INVARIANT. The data word the last step answered, if it was a read, is the content of the register it read, every
reserved bit zero (R25, R74). -/
def ResponseShowsRegister (s : State) : Prop :=
  ∀ r, s.resp = some r → registerWord s.block r.reg = some r.rdata

/-- INVARIANT. Every access still waiting is legal. -/
def PendingLegal (s : State) : Prop := ∀ e ∈ s.pending, legalEvent e = true

/-- Two states whose timebases and input blocks agree, whatever the PWM sub-block holds (00_scope.md R2). -/
def SameInput (s t : State) : Prop :=
  s.block.ticks = t.block.ticks ∧ s.block.sub = t.block.sub ∧ s.block.status = t.block.status ∧
    s.block.last = t.block.last ∧ s.block.pin = t.block.pin ∧ s.block.arm = t.block.arm ∧ s.block.pend = t.block.pend

/-- Two states whose timebases and PWM sub-blocks agree, whatever the input block holds (00_scope.md R2). -/
def SamePwm (s t : State) : Prop :=
  s.block.ticks = t.block.ticks ∧ s.block.sub = t.block.sub ∧ s.block.duty = t.block.duty ∧
    s.block.spkEn = t.block.spkEn

/-- The wake handshake's loop (70_reset_and_hazards.md R234 step 5): wait, poll, until the status read is Released. -/
def handshakeLoop (n : Nat) : Script :=
  .repeatUntil (.line (.wait n) (.line (.pseudo .poll (some 0)) .done)) (.eq (.slice 0 1 0) (.const 3)) .done

end Sys2Proof.Safety
end

