-- ==== Sys2Proof/Certificates/Slice0/Obligations.lean ====
section
/-! DEFINITION. The statements for the provers. A statement about a run speaks of the machine's own runs (`Safety.RunsTo`), of
events delivered in any order. -/

open Sys2Proof Sys2Proof.Machine Sys2Proof.Safety

/-! ### Reset and launch -/

/-- 70_reset_and_hazards.md R230: RESET gives every field its reset value in one step, and leaves PIN. -/
def Obligations.ResetEventSetsEveryFieldButPin : Prop :=
  ∀ s : State, nextEvent s = .reset →
    ∃ t, step s = .next t ∧
      t.block = { ticks := 0, sub := 0, status := .idle, last := 0, pin := s.block.pin, duty := 0,
                  spkEn := false, arm := false, pend := false } ∧
      us t.block = 0

/-- 10_state.md R42 to R44, 70_reset_and_hazards.md R231: the launch state is a reset state whose level is the launch draw,
and after RESET, from any state, every output is inactive and every operation has its effect. -/
def Obligations.LaunchStateIsAResetState : Prop :=
  State.reset.block = { ticks := 0, sub := 0, status := .idle, last := 0, pin := Config.pin0, duty := 0,
                        spkEn := false, arm := false, pend := false } ∧
  ∀ s t : State, nextEvent s = .reset → step s = .next t →
    (pwm t.block = false ∧ ledO t.block = false ∧ spkO t.block = false ∧ spkOe t.block = false ∧
      wakeIrq t.block = false) ∧
    ∀ i, ∃ u, exec i t = .next u

/-! ### The timebase -/

/-- 40_timebase.md R100: one TB event advances SUB, and its wrap advances TICKS in the same step; nothing else changes. -/
def Obligations.TbEventCountsAndCarries : Prop :=
  ∀ s : State, nextEvent s = .tb →
    ∃ t, step s = .next t ∧
      (s.block.sub = 255 → t.block = { s.block with sub := 0, ticks := s.block.ticks + 1 }) ∧
      (s.block.sub ≠ 255 → t.block = { s.block with sub := s.block.sub + 1 })

/-- 40_timebase.md R101: what T is, its range, what TB makes of it, and its value after a reset and n TB events whatever
else but a RESET happens. -/
def Obligations.FullTimeCountsTbEvents : Prop :=
  (∀ b : Block, fullTime b = b.ticks.toNat * 256 + b.sub.toNat ∧ fullTime b = (b.ticks ++ b.sub).toNat ∧
    fullTime b < 2 ^ 40) ∧
  (∀ s t : State, nextEvent s = .tb → step s = .next t →
    fullTime t.block = (fullTime s.block + 1) % 2 ^ 40) ∧
  ∀ (s t : State) (es : List Event), (∀ e ∈ es, e ≠ .reset) → RunsTo (.reset :: es) s t →
    fullTime t.block = tbCount es % 2 ^ 40

/-- 40_timebase.md R105: over any run without RESET the modular difference of the two µs times is the number n of TB
events, exactly below 2^32 and modulo 2^32 beyond. -/
def Obligations.ModularElapsedTimeIsExact : Prop :=
  ∀ (s t : State) (es : List Event), (∀ e ∈ es, e ≠ .reset) → RunsTo es s t →
    (tbCount es < 2 ^ 32 → ((us t.block).toNat + 2 ^ 32 - (us s.block).toNat) % 2 ^ 32 = tbCount es) ∧
    (2 ^ 32 ≤ tbCount es →
      ((us t.block).toNat + 2 ^ 32 - (us s.block).toNat) % 2 ^ 32 = tbCount es % 2 ^ 32)

/-- 40_timebase.md R102. -/
def Obligations.MicrosecondTimeIsLowTicksThenSub : Prop :=
  ∀ b : Block, (us b).toNat = (b.ticks.toNat * 256 + b.sub.toNat) % 2 ^ 32 ∧
    us b = b.ticks.extractLsb' 0 24 ++ b.sub

/-- 40_timebase.md R103: the ms time is the floor of the full T over 1000, its reduction never takes effect, and its range
is 0..1099511627, every value of it reached. -/
def Obligations.MillisecondTimeIsTheFlooredFullTime : Prop :=
  (∀ b : Block, (ms b).toNat = (fullTime b / 1000) % 2 ^ 32 ∧ (ms b).toNat = fullTime b / 1000 ∧
    (ms b).toNat ≤ 1099511627) ∧
  ∀ k : Nat, k ≤ 1099511627 → ∃ b : Block, (ms b).toNat = k

/-- 40_timebase.md R104: TICKS after 256 TB steps, µs after one, ms after 1000, and their wraps. -/
def Obligations.OverflowWrapsSilently : Prop :=
  (∀ b : Block, (tbBlock^[256] b).ticks = b.ticks + 1 ∧ (tbBlock^[256] b).sub = b.sub) ∧
  (∀ b : Block, us (tbBlock b) = us b + 1) ∧
  (∀ b : Block, fullTime b + 1000 < 2 ^ 40 → ms (tbBlock^[1000] b) = ms b + 1) ∧
  (∀ b : Block, fullTime b = 2 ^ 40 - 1 → ms b = 1099511627 ∧ ms (tbBlock b) = 0 ∧ (tbBlock b).ticks = 0) ∧
  (∀ b : Block, fullTime b = 2 ^ 32 - 1 →
    us b = 0xFFFFFFFF ∧ us (tbBlock b) = 0 ∧ ms b = 4294967 ∧ ms (tbBlock b) = 4294967)

/-- 40_timebase.md R106: whatever the next event is, if it is neither TB nor RESET the timebase keeps its value; TB always
counts, so that nothing stops it. -/
def Obligations.OnlyTbAndResetChangeTheTimebase : Prop :=
  (∀ s t : State, step s = .next t → nextEvent s ≠ .tb → nextEvent s ≠ .reset →
    t.block.ticks = s.block.ticks ∧ t.block.sub = s.block.sub) ∧
  ∀ s : State, nextEvent s = .tb → ∃ t, step s = .next t ∧ fullTime t.block = (fullTime s.block + 1) % 2 ^ 40

/-! ### The reads of the timebase -/

/-- 40_timebase.md R110. -/
def Obligations.RdTimeUsReturnsTheMicrosecondTime : Prop :=
  (∀ wdata, decode 0x080#9 wdata = .ok .rdTimeUs ∧ decode 0x180#9 wdata = .error .direction) ∧
  (∀ (w : Bool) (size : BitVec 2) (wdata : Word), size ≠ 0b10 →
    decode (descriptorOf w size 0x00) wdata = .error .size) ∧
  ∀ s : State, ∃ t, exec .rdTimeUs s = .next t ∧ t.block = s.block ∧
    t.resp = some { reg := .timeUs, rdata := s.block.ticks.extractLsb' 0 24 ++ s.block.sub } ∧
    (s.block.ticks = 0x00FFFFFF → s.block.sub = 0xFF → us s.block = 0xFFFFFFFF ∧ us (tbBlock s.block) = 0) ∧
    (s.block.ticks = 3 → s.block.sub = 232 → us s.block = 0x000003E8)

/-- 40_timebase.md R111. -/
def Obligations.RdTimeMsReturnsTheMillisecondTime : Prop :=
  (∀ wdata, decode 0x084#9 wdata = .ok .rdTimeMs) ∧
  (∀ s : State, ∃ t, exec .rdTimeMs s = .next t ∧ t.block = s.block ∧
    ∃ r, t.resp = some { reg := .timeMs, rdata := r } ∧
      r.toNat = (s.block.ticks.toNat * 256 + s.block.sub.toNat) / 1000 % 2 ^ 32) ∧
  ∀ b : Block, (fullTime b = 999 → ms b = 0) ∧ (fullTime b = 1000 → ms b = 1) ∧
    (fullTime b = 2 ^ 32 - 1 → ms b = 4294967) ∧ (fullTime b = 2 ^ 32 → ms b = 4294967) ∧
    (fullTime b = 2 ^ 40 - 1 → ms b = 1099511627 ∧ ms (tbBlock b) = 0) ∧
    (b.ticks = 0x12345678 → b.sub = 0x9A → ms b = 0x04A90BE5)

/-- 40_timebase.md R112: the value read, and the one TB step that changes it. -/
def Obligations.RdTicksReturnsTheTickCounter : Prop :=
  (∀ wdata, decode 0x088#9 wdata = .ok .rdTicks) ∧
  (∀ s : State, ∃ t, exec .rdTicks s = .next t ∧ t.block = s.block ∧
    t.resp = some { reg := .ticks, rdata := s.block.ticks }) ∧
  ∀ s t : State, step s = .next t → t.block.ticks ≠ s.block.ticks →
    nextEvent s = .reset ∨ (nextEvent s = .tb ∧ s.block.sub = 255 ∧ t.block.sub = 0)

/-- 40_timebase.md R113: SUB, zero-extended; it is the PWM phase too. -/
def Obligations.RdSubtickReturnsSubZeroExtended : Prop :=
  (∀ wdata, decode 0x08C#9 wdata = .ok .rdSubtick) ∧
  ∀ s : State, ∃ t, exec .rdSubtick s = .next t ∧ t.block = s.block ∧
    ∃ r, t.resp = some { reg := .subtick, rdata := r } ∧ r.toNat = s.block.sub.toNat ∧
      (pwm s.block = true ↔ r.toNat < s.block.duty.toNat)

/-! ### The debouncer -/

/-- 41_button.md R132: the eight rows; a Released status never goes straight to Pressed. -/
def Obligations.NextStatusFollowsTheTable : Prop :=
  nextStatus .idle false = .pressed ∧ nextStatus .idle true = .idle ∧
  nextStatus .pressed false = .held ∧ nextStatus .pressed true = .released ∧
  nextStatus .held false = .held ∧ nextStatus .held true = .released ∧
  (∀ pin, nextStatus .released pin = .idle ∧ nextStatus .released pin ≠ .pressed)

/-- 41_button.md R133, R134, R140: a poll is accepted exactly when at least 3000 µs, modulo 2^32, have passed since LAST; an
accepted one moves STATUS and LAST, a rejected one nothing; the answer is PIN and the status after it. -/
def Obligations.RdBtnPollPollsAfterTheGuard : Prop :=
  (∀ wdata, decode 0x090#9 wdata = .ok .rdBtnPoll ∧ decode 0x190#9 wdata = .error .direction) ∧
  ∀ s : State,
    (3000 ≤ ((us s.block).toNat + 2 ^ 32 - s.block.last.toNat) % 2 ^ 32 →
      ∃ t, exec .rdBtnPoll s = .next t ∧
        t.block = { s.block with status := nextStatus s.block.status s.block.pin, last := us s.block } ∧
        t.resp = some { reg := .btnPoll,
                        rdata := 0#29 ++ BitVec.ofBool s.block.pin ++ (nextStatus s.block.status s.block.pin).code }) ∧
    (((us s.block).toNat + 2 ^ 32 - s.block.last.toNat) % 2 ^ 32 < 3000 →
      ∃ t, exec .rdBtnPoll s = .next t ∧ t.block = s.block ∧
        t.resp = some { reg := .btnPoll, rdata := 0#29 ++ BitVec.ofBool s.block.pin ++ s.block.status.code })

/-- 41_button.md R135. -/
def Obligations.RejectedPollChangesNothing : Prop :=
  ∀ (s : State) (wdata : Word), nextEvent s = .bus 0x090#9 wdata →
    (elapsed s.block).toNat < 3000 → ∃ t, step s = .next t ∧ t.block = s.block

/-- 41_button.md R141, 10_state.md R30, R31: the peek's word, as a number too, and the encoding of Button Status. -/
def Obligations.RdBtnStatusPeeksWithoutPolling : Prop :=
  (∀ wdata, decode 0x094#9 wdata = .ok .rdBtnStatus) ∧
  ∀ s : State, ∃ t, exec .rdBtnStatus s = .next t ∧ t.block = s.block ∧
    t.resp = some { reg := .btnStatus, rdata := 0#29 ++ BitVec.ofBool s.block.pin ++ s.block.status.code } ∧
    (s.block.status = .idle → s.block.pin = true → t.resp = some { reg := .btnStatus, rdata := 0x00000004 }) ∧
    (ButtonStatus.code .idle = 0b00#2 ∧ ButtonStatus.code .pressed = 0b01#2 ∧ ButtonStatus.code .held = 0b10#2 ∧
      ButtonStatus.code .released = 0b11#2) ∧
    ∃ r, t.resp = some { reg := .btnStatus, rdata := r } ∧
      r.toNat = (if s.block.pin then 4 else 0) +
        match s.block.status with
        | .idle => 0
        | .pressed => 1
        | .held => 2
        | .released => 3

/-- 41_button.md R142, 10_state.md R32: bit 0 set resets the debouncer, bit 0 clear has no effect, whatever the other
bits are. -/
def Obligations.WrBtnCtrlResetsTheDebouncer : Prop :=
  (∀ wdata, decode 0x198#9 wdata = .ok (.wrBtnCtrl wdata) ∧ decode 0x098#9 wdata = .error .direction) ∧
  ∀ (s : State) (wdata : Word),
    (wdata.toNat % 2 = 1 → ∃ t, exec (.wrBtnCtrl wdata) s = .next t ∧
      t.block = { s.block with status := .idle, last := us s.block }) ∧
    (wdata.toNat % 2 = 0 → ∃ t, exec (.wrBtnCtrl wdata) s = .next t ∧ t.block = s.block)

/-- 41_button.md R136: a run that begins in Pressed, ends in Pressed and enters Pressed once on the way enters Released
exactly once, unless the debouncer is reset. -/
def Obligations.OneReleaseBetweenTwoPresses : Prop :=
  ∀ (s t : State) (es : List Event), (∀ e ∈ es, restartsDebouncer e = false) → RunsTo es s t →
    s.block.status = .pressed → t.block.status = .pressed → entriesInto .pressed es s = 1 →
    entriesInto .released es s = 1

/-- 41_button.md R137. The press begins with its falling edge, bounces for GUARD_US units (`x`, closed by the last of their
TB events) and is low until the release (`y`); the release edge, its bounce (`x'`) and its settled part (`y'`) likewise.
The first low sample of the press finds Idle (a, d); one sample of the release part reads high (e). Then STATUS enters
Pressed once and Released once, and leaves Released for Idle at the next accepted sample. -/
def Obligations.BouncedPressIsObservedOnce : Prop :=
  ∀ (s u t : State) (x y x' y' : List Event),
    (∀ e ∈ x ++ y ++ x' ++ y', restartsDebouncer e = false) →
    tbCount x + 1 = 3000 → levelAfter false x = false → (∀ e ∈ y, isPin e = false) →
    tbCount x' + 1 = 3000 → levelAfter true x' = true → (∀ e ∈ y', isPin e = false) →
    RunsTo (.pin false :: x ++ .tb :: y) s u → RunsTo (.pin true :: x' ++ .tb :: y') u t →
    (samples (.pin false :: x ++ .tb :: y) s).find? (fun a => !a.2) = some (.idle, false) →
    (∃ a ∈ samples (.pin true :: x' ++ .tb :: y') u, a.2 = true) →
    entriesInto .pressed (.pin false :: x ++ .tb :: y) s + entriesInto .pressed (.pin true :: x' ++ .tb :: y') u = 1 ∧
    entriesInto .released (.pin false :: x ++ .tb :: y) s + entriesInto .released (.pin true :: x' ++ .tb :: y') u = 1 ∧
    (t.block.status = .released ∨ t.block.status = .idle) ∧
    ∀ v : State, t.block.status = .released → accepted t.block = true → exec .rdBtnPoll t = .next v →
      v.block.status = .idle

/-- 41_button.md R138: where every accepted sample of a run reads high, the press it may hold is never observed: the run with
every level high samples the same and ends with the debouncer, the timebase and the driver registers the same. The press
may reach PIN and, where the wake interrupt is armed in the run, ARM and PEND (R150): these are the same where the run ends
high, and where it is never armed. -/
def Obligations.UnsampledPressIsNeverObserved : Prop :=
  ∀ (s t : State) (es : List Event), s.block.pin = true → RunsTo es s t → (∀ a ∈ samples es s, a.2 = true) →
    ∃ t', RunsTo (withoutPress es) s t' ∧ t'.block.status = t.block.status ∧ t'.block.last = t.block.last ∧
      t'.block.ticks = t.block.ticks ∧ t'.block.sub = t.block.sub ∧ t'.block.duty = t.block.duty ∧
      t'.block.spkEn = t.block.spkEn ∧ samples (withoutPress es) s = samples es s ∧
      (levelAfter true es = true → t'.block.pin = t.block.pin) ∧
      (s.block.arm = false → (∀ e ∈ es, armsWake e = false) →
        t'.block.arm = t.block.arm ∧ t'.block.pend = t.block.pend)

/-- 41_button.md R139: with no poll accepted for n TB events the elapsed time is n mod 2^32, a poll is rejected where that
is below the guard, and some poll within the next GUARD_US TB events would be accepted. -/
def Obligations.ElapsedTimeAliasesAfterALongGap : Prop :=
  (∀ (s t : State) (es : List Event), s.block.last = us s.block → (∀ e ∈ es, restartsDebouncer e = false) →
    RunsTo es s t → samples es s = [] →
    (elapsed t.block).toNat = tbCount es % 2 ^ 32 ∧
    (accepted t.block = true ↔ 3000 ≤ tbCount es % 2 ^ 32)) ∧
  ∀ b : Block, ∃ n ≤ 3000, accepted (tbBlock^[n] b) = true

/-- 70_reset_and_hazards.md R242: where every stretch of a run without a poll holds at most q TB events, and no poll is
accepted, the run holds at most GUARD_US + q of them. -/
def Obligations.PollRateBoundsTheSampleGap : Prop :=
  ∀ (s t : State) (es : List Event) (q : Nat), q + 3000 < 2 ^ 32 → s.block.last = us s.block →
    (∀ e ∈ es, restartsDebouncer e = false) → RunsTo es s t →
    (∀ a m c : List Event, es = a ++ m ++ c → (∀ e ∈ m, isPoll e = false) → tbCount m ≤ q) →
    samples es s = [] → tbCount es ≤ 3000 + q

/-- 70_reset_and_hazards.md R243: after an accepted sample STATUS stays for GUARD_US units, whatever the pin and the polls
do; at the next accepted sample Released becomes Idle, whatever the level. -/
def Obligations.StatusLastsAGuardAfterASample : Prop :=
  (∀ (s t : State) (es : List Event), s.block.last = us s.block → (∀ e ∈ es, restartsDebouncer e = false) →
    tbCount es < 3000 → RunsTo es s t → t.block.status = s.block.status ∧ samples es s = []) ∧
  ∀ s t : State, s.block.status = .released → accepted s.block = true → exec .rdBtnPoll s = .next t →
    t.block.status = .idle

/-- 70_reset_and_hazards.md R244, 41_button.md R142: after a BTN_CTRL reset the status is Idle and no poll is accepted for
GUARD_US units. -/
def Obligations.DebouncerResetRestartsTheGuard : Prop :=
  ∀ (s t : State) (wdata : Word) (es : List Event), wdata.toNat % 2 = 1 →
    (∀ e ∈ es, restartsDebouncer e = false) → tbCount es < 3000 → RunsTo (.bus 0x198#9 wdata :: es) s t →
    t.block.status = .idle ∧ t.block.last = us s.block ∧ samples (.bus 0x198#9 wdata :: es) s = []

/-! ### The input line and the wake-edge detector -/

/-- 41_button.md R130: what a PIN(v) event does; it alone writes PIN; STATUS and LAST change only on a poll or a reset of
the debouncer. -/
def Obligations.PinEventsAloneWriteThePin : Prop :=
  (∀ (s : State) (v : Bool), nextEvent s = .pin v →
    ∃ t, step s = .next t ∧
      (v ≠ s.block.pin ∧ s.block.arm = true → t.block = { s.block with pin := v, arm := false, pend := true }) ∧
      (¬(v ≠ s.block.pin ∧ s.block.arm = true) → t.block = { s.block with pin := v })) ∧
  (∀ s t : State, step s = .next t → isPin (nextEvent s) = false → t.block.pin = s.block.pin) ∧
  ∀ s t : State, step s = .next t → isPoll (nextEvent s) = false → restartsDebouncer (nextEvent s) = false →
    t.block.status = s.block.status ∧ t.block.last = s.block.last

/-- 41_button.md R150, R155: PEND becomes 1 only by firing, an armed change of level in either direction; firing clears
ARM in the same step and changes nothing else but the level. -/
def Obligations.WakeFiresOnArmedEdgesOnly : Prop :=
  (∀ s t : State, step s = .next t → s.block.pend = false → t.block.pend = true →
    nextEvent s = .pin (!s.block.pin) ∧ s.block.arm = true) ∧
  ∀ s : State, nextEvent s = .pin (!s.block.pin) → s.block.arm = true →
    ∃ t, step s = .next t ∧ t.block = { s.block with pin := !s.block.pin, arm := false, pend := true }

/-- 41_button.md R153: wake_irq is PEND, a level that stays asserted until a WAKE write with bit 1 set or RESET. -/
def Obligations.WakeRequestStaysUntilCleared : Prop :=
  (∀ b : Block, wakeIrq b = b.pend) ∧
  (∀ (s t : State) (es : List Event), (∀ e ∈ es, clearsPend e = false) → RunsTo es s t →
    wakeIrq s.block = true → wakeIrq t.block = true) ∧
  ∀ s t : State, clearsPend (nextEvent s) = true → step s = .next t → wakeIrq t.block = false

/-- 41_button.md R154: over a run in which software writes no ARM = 1, the wake interrupt fires at most once, and not at all
where the mask was clear. -/
def Obligations.WakeFiresAtMostOncePerArming : Prop :=
  ∀ (s t : State) (es : List Event), (∀ e ∈ es, armsWake e = false) → RunsTo es s t →
    firings es s ≤ 1 ∧ (s.block.arm = false → firings es s = 0) ∧ (firings es s = 1 → t.block.arm = false)

/-- 41_button.md R151: the value read; PEND and ARM together arise only by a WAKE write that sets ARM. -/
def Obligations.RdWakeReturnsPendAndArm : Prop :=
  (∀ wdata, decode 0x0A4#9 wdata = .ok .rdWake) ∧
  (∀ s : State, ∃ t, exec .rdWake s = .next t ∧ t.block = s.block ∧
    ∃ r, t.resp = some { reg := .wake, rdata := r } ∧
      r.toNat = (if s.block.pend then 2 else 0) + (if s.block.arm then 1 else 0)) ∧
  ∀ s t : State, step s = .next t → ¬(s.block.arm = true ∧ s.block.pend = true) →
    t.block.arm = true → t.block.pend = true → armsWake (nextEvent s) = true ∧ s.block.pend = true

/-- 41_button.md R152. -/
def Obligations.WrWakeWritesArmAndClearsPend : Prop :=
  (∀ wdata, decode 0x1A4#9 wdata = .ok (.wrWake wdata)) ∧
  ∀ (s : State) (wdata : Word), ∃ t, exec (.wrWake wdata) s = .next t ∧
    t.block = { s.block with arm := t.block.arm, pend := t.block.pend } ∧
    (t.block.arm = true ↔ wdata.toNat % 2 = 1) ∧
    (t.block.pend = true ↔ s.block.pend = true ∧ wdata.toNat / 2 % 2 = 0)

/-! ### The PWM and the speaker -/

/-- 42_pwm.md R175: the low eight bits, truncated; the compare is against the new value at once. -/
def Obligations.WrDutyWritesTheLowByte : Prop :=
  (∀ wdata, decode 0x19C#9 wdata = .ok (.wrDuty wdata) ∧ decode 0x09C#9 wdata = .error .direction) ∧
  ∀ (s : State) (wdata : Word), ∃ t, exec (.wrDuty wdata) s = .next t ∧
    t.block = { s.block with duty := t.block.duty } ∧ t.block.duty.toNat = wdata.toNat % 256 ∧
    (pwm t.block = true ↔ s.block.sub.toNat < wdata.toNat % 256)

/-- 42_pwm.md R176. -/
def Obligations.RdSpkReturnsTheSpeakerEnable : Prop :=
  (∀ wdata, decode 0x0A0#9 wdata = .ok .rdSpk) ∧
  ∀ s : State, ∃ t, exec .rdSpk s = .next t ∧ t.block = s.block ∧
    ∃ r, t.resp = some { reg := .spk, rdata := r } ∧ r.toNat = (if s.block.spkEn then 1 else 0)

/-- 42_pwm.md R177: bit 0 alone; DUTY is unchanged; the pad is driven, or not, at once. -/
def Obligations.WrSpkWritesTheSpeakerEnable : Prop :=
  (∀ wdata, decode 0x1A0#9 wdata = .ok (.wrSpk wdata)) ∧
  ∀ (s : State) (wdata : Word), ∃ t, exec (.wrSpk wdata) s = .next t ∧
    t.block = { s.block with spkEn := t.block.spkEn } ∧ (t.block.spkEn = true ↔ wdata.toNat % 2 = 1) ∧
    spkOe t.block = t.block.spkEn ∧ (s.block.duty = 255 → (spkO t.block = true ↔ s.block.sub ≠ 255))

/-- 42_pwm.md R170: the compare, and the high units of any 256 consecutive timebase units while DUTY is constant, whatever
else happens meanwhile. -/
def Obligations.PwmPeriodHoldsDutyHighUnits : Prop :=
  (∀ b : Block, pwm b = true ↔ b.sub.toNat < b.duty.toNat) ∧
  ∀ (s t : State) (es : List Event), (∀ e ∈ es, setsDuty e = false) → tbCount es = 256 → RunsTo es s t →
    highUnits es s = s.block.duty.toNat

/-- 42_pwm.md R178: a period in which DUTY changes from a to b at SUB = p holds min(p, a) + max(0, b - p) high units, and
the next period holds b. -/
def Obligations.MidPeriodDutyWriteSplitsThePeriod : Prop :=
  ∀ (s t : State) (es es' es'' : List Event) (wdata : Word) (p : Nat), s.block.sub = 0 → p < 256 →
    (∀ e ∈ es ++ es' ++ es'', setsDuty e = false) → tbCount es = p → tbCount es' = 256 - p → tbCount es'' = 256 →
    RunsTo (es ++ .bus 0x19C#9 wdata :: es' ++ es'') s t →
    highUnits (es ++ .bus 0x19C#9 wdata :: es') s = min p s.block.duty.toNat + (wdata.toNat % 256 - p) ∧
    highUnits (es ++ .bus 0x19C#9 wdata :: es' ++ es'') s =
      highUnits (es ++ .bus 0x19C#9 wdata :: es') s + wdata.toNat % 256

/-- 42_pwm.md R173: with DUTY in 1..255 spk_o has period 256 and no shorter one; with DUTY = 0 it stays 0. -/
def Obligations.SpeakerToneHasPeriod256 : Prop :=
  ∀ b : Block,
    (∀ n, spkO (tbBlock^[n + 256] b) = spkO (tbBlock^[n] b)) ∧
    (b.duty ≠ 0 → ∀ k, 0 < k → k < 256 → ∃ n, spkO (tbBlock^[n + k] b) ≠ spkO (tbBlock^[n] b)) ∧
    (b.duty = 0 → ∀ n, spkO (tbBlock^[n] b) = false)

/-- 42_pwm.md R171, R172, 10_state.md R39: the outputs are functions of the state; led_o follows the PWM whatever SPK_EN is,
is dark at DUTY = 0 and low exactly at SUB = 255 for DUTY = 255; the speaker pad is driven only with SPK_EN. -/
def Obligations.OutputsFollowTheState : Prop :=
  ∀ b : Block,
    (pwm b = true ↔ b.sub.toNat < b.duty.toNat) ∧ ledO b = pwm b ∧ spkO b = pwm b ∧ spkOe b = b.spkEn ∧ wakeIrq b = b.pend ∧
    (b.duty = 0 → ledO b = false) ∧ (b.duty = 255 → (ledO b = false ↔ b.sub = 255)) ∧
    (b.spkEn = true → spkPad b = some (pwm b)) ∧ (b.spkEn = false → spkPad b = none)

/-- 42_pwm.md R174, R179: DUTY and SPK_EN are independent, each changed by its own write and by RESET alone. -/
def Obligations.DriverRegistersAreIndependent : Prop :=
  ∀ s t : State, step s = .next t → nextEvent s ≠ .reset →
    (t.block.duty ≠ s.block.duty → ∃ wdata, opOf (nextEvent s) = some (.wrDuty wdata) ∧ t.block.spkEn = s.block.spkEn) ∧
    (t.block.spkEn ≠ s.block.spkEn → ∃ wdata, opOf (nextEvent s) = some (.wrSpk wdata) ∧ t.block.duty = s.block.duty)

/-! ### Accesses: decoding, errors, order -/

/-- 30_encoding.md R71, 60_exceptions.md R203: the one cause reported, in the order SIZE, MISALIGNED, UNMAPPED, DIRECTION;
an access with no cause is decoded. The bits are taken from the number the descriptor is. -/
def Obligations.DecodeReportsTheFirstCause : Prop :=
  ∀ (d : Descriptor) (wdata : Word),
    let write := d.toNat / 256
    let size := d.toNat / 64 % 4
    let off := d.toNat % 64
    (decode d wdata = .error .size ↔ size ≠ 2) ∧
    (decode d wdata = .error .misaligned ↔ size = 2 ∧ off % 4 ≠ 0) ∧
    (decode d wdata = .error .unmapped ↔ size = 2 ∧ off % 4 = 0 ∧ 0x28 ≤ off) ∧
    (decode d wdata = .error .direction ↔ size = 2 ∧ off % 4 = 0 ∧ off < 0x28 ∧
      ((write = 1 ∧ off < 0x18) ∨ (write = 0 ∧ (off = 0x18 ∨ off = 0x1C)))) ∧
    ((∃ i, decode d wdata = .ok i) ↔ Descriptor.wellFormed d = true)

/-- 30_encoding.md R75: how many of the 512 descriptors each cause has, and how many are legal. -/
def Obligations.DescriptorGroupsHaveTheirCounts : Prop :=
  let count (p : Except BusCause Instr → Bool) : Nat :=
    ((List.range 512).filter fun n => p (decode (BitVec.ofNat 9 n) 0)).length
  count (fun r => match r with | .error .size => true | _ => false) = 384 ∧
  count (fun r => match r with | .error .misaligned => true | _ => false) = 96 ∧
  count (fun r => match r with | .error .unmapped => true | _ => false) = 12 ∧
  count (fun r => match r with | .error .direction => true | _ => false) = 8 ∧
  count (fun r => match r with | .ok _ => true | _ => false) = 12

/-- The table of 30_encoding.md R72: the descriptors of opcode_table.json, each the operation it stands for. That an access
is written as a 16-bit number, with a write data word of zero, is the model's choice (log 3). -/
def Obligations.TableDescriptorsDecodeAsListed : Prop :=
  decodeTableWord 16 0x080 = some .rdTimeUs ∧ decodeTableWord 16 0x084 = some .rdTimeMs ∧
  decodeTableWord 16 0x088 = some .rdTicks ∧ decodeTableWord 16 0x08C = some .rdSubtick ∧
  decodeTableWord 16 0x090 = some .rdBtnPoll ∧ decodeTableWord 16 0x094 = some .rdBtnStatus ∧
  decodeTableWord 16 0x198 = some (.wrBtnCtrl 0) ∧ decodeTableWord 16 0x19C = some (.wrDuty 0) ∧
  decodeTableWord 16 0x0A0 = some .rdSpk ∧ decodeTableWord 16 0x1A0 = some (.wrSpk 0) ∧
  decodeTableWord 16 0x0A4 = some .rdWake ∧ decodeTableWord 16 0x1A4 = some (.wrWake 0)

/-- 30_encoding.md R70, R72, R73: decoding an encoded operation gives it back, with every write data word; and an access
that decodes is the encoding of what it decodes to, its data word kept whole by a write. -/
def Obligations.DecodeAndEncodeAgree : Prop :=
  (∀ i : Instr, i.wellFormed = true → decode (encode i).1 (encode i).2 = .ok i) ∧
  ∀ (d : Descriptor) (wdata : Word) (i : Instr), decode d wdata = .ok i →
    (encode i).1 = d ∧ (d.toNat / 256 = 1 → (encode i).2 = wdata) ∧ (d.toNat / 256 = 0 → (encode i).2 = 0)

/-- 60_exceptions.md R200, R202: an illegal access gets the error response with its cause and has no effect, the step
answering no next state. The codes of the causes. -/
def Obligations.IllegalAccessGetsTheErrorResponse : Prop :=
  (∀ (s : State) (d : Descriptor) (wdata : Word) (cause : BusCause),
    nextEvent s = .bus d wdata → decode d wdata = .error cause → step s = .fault (.busError cause)) ∧
  causeCode .size = 1 ∧ causeCode .misaligned = 2 ∧ causeCode .unmapped = 3 ∧ causeCode .direction = 4

/-- 60_exceptions.md R201: whatever the data and the state, a legal operation never raises an exception, and so neither
does a step whose event is a legal access, a TB, a PIN or a RESET. -/
def Obligations.LegalOperationsNeverRaise : Prop :=
  (∀ (i : Instr) (s : State), ∃ t, exec i s = .next t) ∧
  ∀ s : State, legalEvent (nextEvent s) = true → ∃ t, step s = .next t

/-- 10_state.md R37, 30_encoding.md R71: when the next event is an access that decodes to `i`, the step is `exec i` with
the event taken from where it waited. The MODEL's choice: the oldest waiting event is the next (log 1), every step that is
answered takes its event and no other from where it waits (log 1, log 2), and an access written as a number and placed by
`withFetchWord` is the next step's (log 3). -/
def Obligations.StepRunsTheDecodedOperation : Prop :=
  (∀ (s : State) (d : Descriptor) (wdata : Word) (i : Instr), nextEvent s = .bus d wdata → decode d wdata = .ok i →
    step s = exec i (takeEvent s)) ∧
  (∀ (s : State) (e : Event) (es : List Event), s.pending = e :: es →
    nextEvent s = e ∧ takeEvent s = { s with pending := es }) ∧
  (∀ s t : State, step s = .next t → t.pending = (takeEvent s).pending ∧ t.envIndex = (takeEvent s).envIndex) ∧
  ∀ (s : State) (nbits w : Nat) (i : Instr), decodeTableWord nbits w = some i →
    step (s.withFetchWord nbits w) = exec i s

/-- 20_memory.md R59: events are performed one at a time in the order they are delivered, each finishing before the next
begins. The MODEL's own fields (log 1, log 2): the events after them wait as they were, and none is drawn from the free
environment. -/
def Obligations.EventsArePerformedInDeliveryOrder : Prop :=
  (∀ (es es' : List Event) (s t : State), RunsTo (es ++ es') s t ↔ ∃ u, RunsTo es s u ∧ RunsTo es' u t) ∧
  ∀ (es : List Event) (s t : State), RunsTo es s t → t.pending = s.pending ∧ t.envIndex = s.envIndex

/-- 20_memory.md R55: a read other than of BTN_POLL leaves the block as it was, and read again at once answers the same. -/
def Obligations.OnlyThePollReadHasASideEffect : Prop :=
  (∀ (s t : State) (d : Descriptor) (wdata : Word), nextEvent s = .bus d wdata → d.toNat / 256 = 0 → d ≠ 0x090#9 →
    step s = .next t → t.block = s.block) ∧
  ∀ (i : Instr) (s t u : State), (encode i).1.toNat / 256 = 0 → i ≠ .rdBtnPoll → exec i s = .next t →
    exec i t = .next u → u.resp = t.resp

/-- 20_memory.md R56: DUTY, SPK and WAKE writes are idempotent; a BTN_CTRL write is where no TB comes between, and where one
does LAST moves by one. -/
def Obligations.RegisterWritesAreIdempotent : Prop :=
  (∀ (i : Instr) (wdata : Word) (s t u : State),
    i = .wrDuty wdata ∨ i = .wrSpk wdata ∨ i = .wrWake wdata ∨ i = .wrBtnCtrl wdata →
    exec i s = .next t → exec i t = .next u → u.block = t.block) ∧
  ∀ (s t : State), RunsTo [.bus 0x198#9 1, .tb, .bus 0x198#9 1] s t → t.block.last = us s.block + 1

/-- The MODEL's own fields: an operation leaves the waiting events as they are (log 1, log 2), a read answers data and a
write none (log 4). -/
def Obligations.OperationsAnswerDataExactlyForReads : Prop :=
  ∀ (i : Instr) (s t : State), exec i s = .next t →
    t.pending = s.pending ∧ t.envIndex = s.envIndex ∧ (t.resp = none ↔ (encode i).1.toNat / 256 = 1)

/-- 30_encoding.md R74, 10_state.md R25: every step keeps it that the word last read is the content of the register read, all
reserved bits zero, and that the waiting accesses are legal. That the word read is held, and dropped by every step that is
no read, is the model's choice (log 4), and so is where an access waits (log 1). -/
def Obligations.StepKeepsTheResponseInvariant : Prop :=
  ∀ s t : State, ResponseShowsRegister s ∧ PendingLegal s → step s = .next t →
    ResponseShowsRegister t ∧ PendingLegal t

/-- The invariant holds at launch, where the model lists no event and has answered nothing (log 1, log 4). -/
def Obligations.ResponseInvariantHoldsAtReset : Prop :=
  ResponseShowsRegister State.reset ∧ PendingLegal State.reset

/-- 60_exceptions.md R201: a machine whose waiting accesses are all legal performs every waiting event. -/
def Obligations.LegalScheduleRunsToItsEnd : Prop :=
  ∀ s : State, PendingLegal s →
    ∃ t : State, Host.Core.run Sys2Proof.core s.pending.length s = Host.Outcome.next t ∧ t.pending = []

/-- 00_scope.md R11, 20_memory.md R51, R53, R57: an access of n bytes at TTCB_BASE + off is the access with that OFF, legal
only for n = 4; a fetch is a read; the base is 64-byte aligned. The model's choice: the refusal outside the window and an
address as a natural number (log 8), the cause SIZE for a number of bytes that R70 gives no code (log 10). -/
def Obligations.BusPrimitivesReachTheWindow : Prop :=
  (∀ (s : State) (off : BitVec 6) (v : Word),
    memRead (Config.ttcbBase + off.toNat) 4 s = access (descriptorOf false 0b10 off) 0 s ∧
    memWrite (Config.ttcbBase + off.toNat) 4 v s = access (descriptorOf true 0b10 off) v s) ∧
  (∀ (s : State) (off : BitVec 6) (n : Nat) (v : Word), n ≠ 4 →
    memRead (Config.ttcbBase + off.toNat) n s = .fault (.busError .size) ∧
    memWrite (Config.ttcbBase + off.toNat) n v s = .fault (.busError .size)) ∧
  (∀ (s : State) (addr n : Nat) (v : Word), addr < Config.ttcbBase ∨ Config.ttcbBase + 64 ≤ addr →
    memRead addr n s = .refused .notSelected ∧ memWrite addr n v s = .refused .notSelected) ∧
  (∀ (s : State) (addr n : Nat), fetch addr n s = memRead addr n s) ∧
  (∀ s : State, fetch (Config.ttcbBase + 0x10) 4 s = exec .rdBtnPoll s) ∧
  Config.ttcbBase % 64 = 0

/-- 20_memory.md R50: lane k carries bits [8k+7:8k], and the four lanes are the word. -/
def Obligations.ByteLanesAreLittleEndian : Prop :=
  ∀ v : Word, (∀ k : Fin 4, (byteLane v k).toNat = v.toNat / 2 ^ (8 * k.val) % 256) ∧
    wordOfLanes (byteLane v 0) (byteLane v 1) (byteLane v 2) (byteLane v 3) = v

/-- 60_exceptions.md R207: both orders of the simultaneous events that change a result. In the last row RESET after any
event leaves of it the level alone, and any event after RESET acts on the reset block, a write to be seen there. -/
def Obligations.SimultaneousEventOrdersDiffer : Prop :=
  (∀ (s t : State) (v : Bool), v ≠ s.block.pin → s.block.arm = false →
    (RunsTo [.bus 0x1A4#9 3, .pin v] s t → t.block.arm = false ∧ t.block.pend = true) ∧
    (RunsTo [.pin v, .bus 0x1A4#9 3] s t → t.block.arm = true ∧ t.block.pend = false)) ∧
  (∀ (s t : State) (v : Bool), v ≠ s.block.pin → s.block.arm = true → s.block.pend = false →
    (RunsTo [.bus 0x1A4#9 2, .pin v] s t → t.block.arm = false ∧ t.block.pend = false ∧ firings [.bus 0x1A4#9 2, .pin v] s = 0) ∧
    (RunsTo [.pin v, .bus 0x1A4#9 2] s t → t.block.arm = false ∧ t.block.pend = false ∧ firings [.pin v, .bus 0x1A4#9 2] s = 1) ∧
    (RunsTo [.pin v] s t → wakeIrq t.block = true)) ∧
  (∀ (s t : State) (wdata : Word),
    (RunsTo [.bus 0x080#9 wdata] s t → t.resp = some { reg := .timeUs, rdata := us s.block }) ∧
    (RunsTo [.tb, .bus 0x080#9 wdata] s t → t.resp = some { reg := .timeUs, rdata := us s.block + 1 })) ∧
  (∀ (s : State) (wdata : Word), (elapsed s.block).toNat = 2999 →
    samples [.bus 0x090#9 wdata, .tb] s = [] ∧
    samples [.tb, .bus 0x090#9 wdata] s = [(s.block.status, s.block.pin)]) ∧
  (∀ (s : State) (wdata : Word) (v : Bool), accepted s.block = true →
    samples [.bus 0x090#9 wdata, .pin v] s = [(s.block.status, s.block.pin)] ∧
    samples [.pin v, .bus 0x090#9 wdata] s = [(s.block.status, v)]) ∧
  (∀ (s t : State) (e : Event), RunsTo [e, .reset] s t →
    t.block = resetBlock { s.block with pin := levelAfter s.block.pin [e] }) ∧
  (∀ (s t : State) (e : Event), RunsTo [.reset, e] s t ↔
    RunsTo [e] { s with block := { ticks := 0, sub := 0, status := .idle, last := 0, pin := s.block.pin, duty := 0,
                                   spkEn := false, arm := false, pend := false },
                        resp := none } t) ∧
  ∀ (s t : State) (wdata : Word),
    (RunsTo [.bus 0x19C#9 wdata, .reset] s t → t.block.duty = 0) ∧
    (RunsTo [.reset, .bus 0x19C#9 wdata] s t → t.block.duty.toNat = wdata.toNat % 256)

/-- 00_scope.md R2, 10_state.md R23, 42_pwm.md R174: over any run, what the input block and the timebase do does not depend
on the PWM registers, and what the PWM does does not depend on the input block. -/
def Obligations.SubBlocksDoNotInterfere : Prop :=
  (∀ (es : List Event) (s s' t : State), SameInput s s' → RunsTo es s t →
    ∃ t', RunsTo es s' t' ∧ SameInput t t' ∧ samples es s' = samples es s ∧ firings es s' = firings es s) ∧
  ∀ (es : List Event) (s s' t : State), SamePwm s s' → RunsTo es s t →
    ∃ t', RunsTo es s' t' ∧ SamePwm t t' ∧ highUnits es s' = highUnits es s ∧ spkPad t'.block = spkPad t.block

/-! ### The platform's halt and the host script -/

/-- 60_exceptions.md R206, R216, 41_button.md R156, 10_state.md R38: the halt changes no field of the block; in it the
timebase advances exactly where TB_RUNS_IN_SLEEP; an armed edge fires without a TB event and ends the halt; an asserted
wake_irq prevents it. The platform it speaks of, which units reach the block and what ends the halt, is the model's choice
(log 9), and so is that the edge ends the halt in its own step, with no wake latency (log 16). -/
def Obligations.HaltKeepsTheBlockAndTheWake : Prop :=
  (∀ p : Platform, ∃ q, platformStep .halt p = .next q ∧ q.machine.block = p.machine.block ∧
    q.cpuHalted = !wakeIrq p.machine.block) ∧
  (∀ p : Platform, p.cpuHalted = true → ∃ q, platformStep .unit p = .next q ∧
    (Config.tbRunsInSleep = true → q.machine.block = tbBlock p.machine.block) ∧
    (Config.tbRunsInSleep = false → q.machine.block = p.machine.block)) ∧
  (∀ p : Platform, p.cpuHalted = false → ∃ q, platformStep .unit p = .next q ∧
    q.machine.block = tbBlock p.machine.block) ∧
  ∀ p : Platform, p.machine.block.arm = true →
    ∃ q, platformStep (.pin (!p.machine.block.pin)) p = .next q ∧ q.cpuHalted = false ∧
      q.machine.block = { p.machine.block with pin := !p.machine.block.pin, arm := false, pend := true }

/-- 30_encoding.md R78: each pseudo-instruction is one access. -/
def Obligations.PseudoInstructionsExpandToOneAccess : Prop :=
  encode Pseudo.nowMicros.expand = (0x080#9, 0) ∧ encode Pseudo.nowMillis.expand = (0x084#9, 0) ∧
  encode Pseudo.poll.expand = (0x090#9, 0) ∧ encode Pseudo.peek.expand = (0x094#9, 0) ∧
  encode Pseudo.btnReset.expand = (0x198#9, 1) ∧
  (∀ level, encode (Pseudo.setBrightness level).expand = (0x19C#9, level)) ∧
  encode Pseudo.speakerOn.expand = (0x1A0#9, 1) ∧ encode Pseudo.speakerOff.expand = (0x1A0#9, 0) ∧
  encode Pseudo.wakeArm.expand = (0x1A4#9, 3) ∧ encode Pseudo.wakeAck.expand = (0x1A4#9, 2) ∧
  encode Pseudo.wakeDisarm.expand = (0x1A4#9, 0)

/-- 70_reset_and_hazards.md R235: started with the line high, no press and, as R234's loop does not say, STATUS Idle, the wake
handshake's loop never ends, and on the machine itself no run without a low level ever shows Released. That a loop which
does not end is a bounded run that ends as `outOfFuel` for every bound, is the model's choice (log 11). -/
def Obligations.HandshakeWithoutAPressNeverEnds : Prop :=
  (∀ (fuel n : Nat) (st : ScriptState), st.schedule = [] → st.machine.block.pin = true →
    st.machine.block.status = .idle → runScript fuel (handshakeLoop n) st = .outOfFuel) ∧
  ∀ (s t : State) (es : List Event), (∀ e ∈ es, e ≠ .pin false) → s.block.pin = true → s.block.status = .idle →
    RunsTo es s t → t.block.status = .idle
end

