-- ==== Sys2Proof/Laws/Decode.lean ====
section
/-! SUPPORT. What each legal descriptor of 30_encoding.md R72 decodes to, for any data word. -/

namespace Sys2Proof

@[simp] theorem decode_rdTimeUs (wdata : Word) : decode 0x080#9 wdata = .ok .rdTimeUs := by
  simp [decode, fieldSize, fieldOff, fieldW, regAt, decodeDirection, readInstr]

@[simp] theorem decode_rdTimeMs (wdata : Word) : decode 0x084#9 wdata = .ok .rdTimeMs := by
  simp [decode, fieldSize, fieldOff, fieldW, regAt, decodeDirection, readInstr]

@[simp] theorem decode_rdTicks (wdata : Word) : decode 0x088#9 wdata = .ok .rdTicks := by
  simp [decode, fieldSize, fieldOff, fieldW, regAt, decodeDirection, readInstr]

@[simp] theorem decode_rdSubtick (wdata : Word) : decode 0x08C#9 wdata = .ok .rdSubtick := by
  simp [decode, fieldSize, fieldOff, fieldW, regAt, decodeDirection, readInstr]

@[simp] theorem decode_rdBtnPoll (wdata : Word) : decode 0x090#9 wdata = .ok .rdBtnPoll := by
  simp [decode, fieldSize, fieldOff, fieldW, regAt, decodeDirection, readInstr]

@[simp] theorem decode_rdBtnStatus (wdata : Word) : decode 0x094#9 wdata = .ok .rdBtnStatus := by
  simp [decode, fieldSize, fieldOff, fieldW, regAt, decodeDirection, readInstr]

@[simp] theorem decode_wrBtnCtrl (wdata : Word) : decode 0x198#9 wdata = .ok (.wrBtnCtrl wdata) := by
  simp [decode, fieldSize, fieldOff, fieldW, regAt, decodeDirection, writeInstr]

@[simp] theorem decode_wrDuty (wdata : Word) : decode 0x19C#9 wdata = .ok (.wrDuty wdata) := by
  simp [decode, fieldSize, fieldOff, fieldW, regAt, decodeDirection, writeInstr]

@[simp] theorem decode_rdSpk (wdata : Word) : decode 0x0A0#9 wdata = .ok .rdSpk := by
  simp [decode, fieldSize, fieldOff, fieldW, regAt, decodeDirection, readInstr]

@[simp] theorem decode_wrSpk (wdata : Word) : decode 0x1A0#9 wdata = .ok (.wrSpk wdata) := by
  simp [decode, fieldSize, fieldOff, fieldW, regAt, decodeDirection, writeInstr]

@[simp] theorem decode_rdWake (wdata : Word) : decode 0x0A4#9 wdata = .ok .rdWake := by
  simp [decode, fieldSize, fieldOff, fieldW, regAt, decodeDirection, readInstr]

@[simp] theorem decode_wrWake (wdata : Word) : decode 0x1A4#9 wdata = .ok (.wrWake wdata) := by
  simp [decode, fieldSize, fieldOff, fieldW, regAt, decodeDirection, writeInstr]

end Sys2Proof
end

