-- ==== Sys2Proof/Laws/State.lean ====
section
/-! SUPPORT. One lemma per field per update of the block and of the state, so that no proof unfolds an update. -/

namespace Sys2Proof.Machine

/-! ### RESET (70_reset_and_hazards.md R230) -/

@[simp] theorem resetBlock_ticks (b : Block) : (resetBlock b).ticks = 0 := rfl
@[simp] theorem resetBlock_sub (b : Block) : (resetBlock b).sub = 0 := rfl
@[simp] theorem resetBlock_status (b : Block) : (resetBlock b).status = .idle := rfl
@[simp] theorem resetBlock_last (b : Block) : (resetBlock b).last = 0 := rfl
@[simp] theorem resetBlock_pin (b : Block) : (resetBlock b).pin = b.pin := rfl
@[simp] theorem resetBlock_duty (b : Block) : (resetBlock b).duty = 0 := rfl
@[simp] theorem resetBlock_spkEn (b : Block) : (resetBlock b).spkEn = false := rfl
@[simp] theorem resetBlock_arm (b : Block) : (resetBlock b).arm = false := rfl
@[simp] theorem resetBlock_pend (b : Block) : (resetBlock b).pend = false := rfl

/-! ### The debouncer reset (41_button.md R142) -/

@[simp] theorem btnReset_ticks (b : Block) : (btnReset b).ticks = b.ticks := rfl
@[simp] theorem btnReset_sub (b : Block) : (btnReset b).sub = b.sub := rfl
@[simp] theorem btnReset_status (b : Block) : (btnReset b).status = .idle := rfl
@[simp] theorem btnReset_last (b : Block) : (btnReset b).last = us b := rfl
@[simp] theorem btnReset_pin (b : Block) : (btnReset b).pin = b.pin := rfl
@[simp] theorem btnReset_duty (b : Block) : (btnReset b).duty = b.duty := rfl
@[simp] theorem btnReset_spkEn (b : Block) : (btnReset b).spkEn = b.spkEn := rfl
@[simp] theorem btnReset_arm (b : Block) : (btnReset b).arm = b.arm := rfl
@[simp] theorem btnReset_pend (b : Block) : (btnReset b).pend = b.pend := rfl

/-! ### Firing the wake interrupt (41_button.md R150) -/

@[simp] theorem fireWake_ticks (b : Block) : (fireWake b).ticks = b.ticks := rfl
@[simp] theorem fireWake_sub (b : Block) : (fireWake b).sub = b.sub := rfl
@[simp] theorem fireWake_status (b : Block) : (fireWake b).status = b.status := rfl
@[simp] theorem fireWake_last (b : Block) : (fireWake b).last = b.last := rfl
@[simp] theorem fireWake_pin (b : Block) : (fireWake b).pin = b.pin := rfl
@[simp] theorem fireWake_duty (b : Block) : (fireWake b).duty = b.duty := rfl
@[simp] theorem fireWake_spkEn (b : Block) : (fireWake b).spkEn = b.spkEn := rfl
@[simp] theorem fireWake_arm (b : Block) : (fireWake b).arm = false := rfl
@[simp] theorem fireWake_pend (b : Block) : (fireWake b).pend = true := rfl

/-! ### TB (40_timebase.md R100) -/

@[simp] theorem tbBlock_ticks (b : Block) : (tbBlock b).ticks = if b.sub = 255 then b.ticks + 1 else b.ticks := by
  unfold tbBlock; split <;> rfl
@[simp] theorem tbBlock_sub (b : Block) : (tbBlock b).sub = b.sub + 1 := by
  unfold tbBlock
  split
  next h => simp [h]
  next => rfl
@[simp] theorem tbBlock_status (b : Block) : (tbBlock b).status = b.status := by unfold tbBlock; split <;> rfl
@[simp] theorem tbBlock_last (b : Block) : (tbBlock b).last = b.last := by unfold tbBlock; split <;> rfl
@[simp] theorem tbBlock_pin (b : Block) : (tbBlock b).pin = b.pin := by unfold tbBlock; split <;> rfl
@[simp] theorem tbBlock_duty (b : Block) : (tbBlock b).duty = b.duty := by unfold tbBlock; split <;> rfl
@[simp] theorem tbBlock_spkEn (b : Block) : (tbBlock b).spkEn = b.spkEn := by unfold tbBlock; split <;> rfl
@[simp] theorem tbBlock_arm (b : Block) : (tbBlock b).arm = b.arm := by unfold tbBlock; split <;> rfl
@[simp] theorem tbBlock_pend (b : Block) : (tbBlock b).pend = b.pend := by unfold tbBlock; split <;> rfl

/-! ### A poll (41_button.md R134) -/

@[simp] theorem poll_ticks (b : Block) : (poll b).ticks = b.ticks := by unfold poll; split <;> rfl
@[simp] theorem poll_sub (b : Block) : (poll b).sub = b.sub := by unfold poll; split <;> rfl
@[simp] theorem poll_status (b : Block) : (poll b).status = if accepted b then nextStatus b.status b.pin else b.status := by
  unfold poll; split <;> rfl
@[simp] theorem poll_last (b : Block) : (poll b).last = if accepted b then us b else b.last := by
  unfold poll; split <;> rfl
@[simp] theorem poll_pin (b : Block) : (poll b).pin = b.pin := by unfold poll; split <;> rfl
@[simp] theorem poll_duty (b : Block) : (poll b).duty = b.duty := by unfold poll; split <;> rfl
@[simp] theorem poll_spkEn (b : Block) : (poll b).spkEn = b.spkEn := by unfold poll; split <;> rfl
@[simp] theorem poll_arm (b : Block) : (poll b).arm = b.arm := by unfold poll; split <;> rfl
@[simp] theorem poll_pend (b : Block) : (poll b).pend = b.pend := by unfold poll; split <;> rfl

/-! ### PIN(v) (41_button.md R130) -/

@[simp] theorem pinBlock_ticks (v : Bool) (b : Block) : (pinBlock v b).ticks = b.ticks := by unfold pinBlock; split <;> rfl
@[simp] theorem pinBlock_sub (v : Bool) (b : Block) : (pinBlock v b).sub = b.sub := by unfold pinBlock; split <;> rfl
@[simp] theorem pinBlock_status (v : Bool) (b : Block) : (pinBlock v b).status = b.status := by unfold pinBlock; split <;> rfl
@[simp] theorem pinBlock_last (v : Bool) (b : Block) : (pinBlock v b).last = b.last := by unfold pinBlock; split <;> rfl
@[simp] theorem pinBlock_pin (v : Bool) (b : Block) : (pinBlock v b).pin = v := rfl
@[simp] theorem pinBlock_duty (v : Bool) (b : Block) : (pinBlock v b).duty = b.duty := by unfold pinBlock; split <;> rfl
@[simp] theorem pinBlock_spkEn (v : Bool) (b : Block) : (pinBlock v b).spkEn = b.spkEn := by unfold pinBlock; split <;> rfl
@[simp] theorem pinBlock_arm (v : Bool) (b : Block) : (pinBlock v b).arm = (b.arm && v == b.pin) := by
  unfold pinBlock; cases v <;> cases hp : b.pin <;> cases ha : b.arm <;> simp_all
@[simp] theorem pinBlock_pend (v : Bool) (b : Block) : (pinBlock v b).pend = (b.pend || (v != b.pin && b.arm)) := by
  unfold pinBlock; cases v <;> cases hp : b.pin <;> cases ha : b.arm <;> simp_all [fireWake]

/-! ### The state's fields -/

@[simp] theorem takeEvent_block (s : State) : (takeEvent s).block = s.block := by
  unfold takeEvent; split <;> rfl
@[simp] theorem takeEvent_resp (s : State) : (takeEvent s).resp = s.resp := by
  unfold takeEvent; split <;> rfl
@[simp] theorem takeEvent_cons (s : State) (e : Event) (es : List Event) :
    takeEvent { s with pending := e :: es } = { s with pending := es } := rfl
@[simp] theorem nextEvent_cons (s : State) (e : Event) (es : List Event) :
    nextEvent { s with pending := e :: es } = e := rfl
@[simp] theorem deliver_block (es : List Event) (s : State) : (Safety.deliver es s).block = s.block := rfl
@[simp] theorem deliver_resp (es : List Event) (s : State) : (Safety.deliver es s).resp = s.resp := rfl
@[simp] theorem deliver_envIndex (es : List Event) (s : State) : (Safety.deliver es s).envIndex = s.envIndex := rfl
@[simp] theorem deliver_pending (es : List Event) (s : State) :
    (Safety.deliver es s).pending = es ++ s.pending := rfl

/-! ### Derived values see the timebase alone (40_timebase.md R101 to R103) -/

theorem fullTime_congr {b c : Block} (ht : b.ticks = c.ticks) (hs : b.sub = c.sub) : fullTime b = fullTime c := by
  simp [fullTime, ht, hs]

theorem us_congr {b c : Block} (ht : b.ticks = c.ticks) (hs : b.sub = c.sub) : us b = us c := by
  simp [us, fullTime_congr ht hs]

end Sys2Proof.Machine
end

