-- ==== Sys2Proof/Laws/Flags.lean ====
section
/-! SUPPORT. The one-bit results and the bits of a write data word, said over natural numbers. -/

namespace Sys2Proof.Machine

theorem fullTime_eq (b : Block) : fullTime b = b.ticks.toNat * 256 + b.sub.toNat := rfl

theorem us_toNat (b : Block) : (us b).toNat = fullTime b % 2 ^ 32 := by
  simp [us]

/-- The elapsed time is the modular difference of 00_scope.md R9. -/
theorem elapsed_toNat (b : Block) : (elapsed b).toNat = ((us b).toNat + 2 ^ 32 - b.last.toNat) % 2 ^ 32 := by
  have := b.last.isLt
  have := (us b).isLt
  simp only [elapsed, BitVec.toNat_sub]
  omega

theorem accepted_iff (b : Block) : accepted b = true ↔ 3000 ≤ (elapsed b).toNat := by
  unfold accepted
  exact decide_eq_true_iff

theorem pwm_iff (b : Block) : pwm b = true ↔ b.sub.toNat < b.duty.toNat := by
  unfold pwm
  exact decide_eq_true_iff

theorem btnResetBit_iff (wdata : Word) : btnResetBit wdata = true ↔ wdata.toNat % 2 = 1 := by
  simp [btnResetBit, BitVec.getLsbD, Nat.testBit_zero]

theorem spkBit_iff (wdata : Word) : spkBit wdata = true ↔ wdata.toNat % 2 = 1 := by
  simp [spkBit, BitVec.getLsbD, Nat.testBit_zero]

theorem armBit_iff (wdata : Word) : armBit wdata = true ↔ wdata.toNat % 2 = 1 := by
  simp [armBit, BitVec.getLsbD, Nat.testBit_zero]

theorem pendClearBit_iff (wdata : Word) : pendClearBit wdata = true ↔ wdata.toNat / 2 % 2 = 1 := by
  simp [pendClearBit, BitVec.getLsbD, Nat.testBit_succ, Nat.testBit_zero]

theorem dutyField_toNat (wdata : Word) : (dutyField wdata).toNat = wdata.toNat % 256 := by
  simp [dutyField]

end Sys2Proof.Machine
end

