-- ==== Sys2Proof/Laws/Ops.lean ====
section
/-! SUPPORT. Once, everything a shared operation can answer; proofs cite these and do not unfold the operation. -/

namespace Sys2Proof.Machine

@[simp] theorem respond_eq_next (r : Reg) (v : Word) (b : Block) (s t : State) :
    respond r v b s = .next t ↔ t = { s with block := b, resp := some { reg := r, rdata := v } } := by
  simp [respond, eq_comm]

@[simp] theorem complete_eq_next (b : Block) (s t : State) :
    complete b s = .next t ↔ t = { s with block := b, resp := none } := by
  simp [complete, eq_comm]

/-- The error response is a fault and never a next state (60_exceptions.md R202). -/
@[simp] theorem raiseBusError_ne_next (cause : BusCause) (t : State) : raiseBusError cause ≠ .next t := by
  simp [raiseBusError]

/-- An access that answers a next state is a legal operation's (30_encoding.md R71). -/
theorem access_eq_next {d : Descriptor} {wdata : Word} {s t : State} (h : access d wdata s = .next t) :
    ∃ i, decode d wdata = .ok i ∧ exec i s = .next t := by
  unfold access at h
  split at h
  · exact ⟨_, ‹_›, h⟩
  · exact absurd h (raiseBusError_ne_next _ _)

theorem access_ok {d : Descriptor} {wdata : Word} {i : Instr} (h : decode d wdata = .ok i) (s : State) :
    access d wdata s = exec i s := by
  simp [access, h]

theorem access_error {d : Descriptor} {wdata : Word} {cause : BusCause} (h : decode d wdata = .error cause) (s : State) :
    access d wdata s = .fault (.busError cause) := by
  simp [access, h, raiseBusError]

/-- The block after an operation: what each of the twelve can do to it, and to nothing else (30_encoding.md R72). -/
def effect : Instr → Block → Block
  | .rdTimeUs, b => b
  | .rdTimeMs, b => b
  | .rdTicks, b => b
  | .rdSubtick, b => b
  | .rdBtnPoll, b => poll b
  | .rdBtnStatus, b => b
  | .wrBtnCtrl wdata, b => if btnResetBit wdata then btnReset b else b
  | .wrDuty wdata, b => { b with duty := dutyField wdata }
  | .rdSpk, b => b
  | .wrSpk wdata, b => { b with spkEn := spkBit wdata }
  | .rdWake, b => b
  | .wrWake wdata, b => { b with arm := armBit wdata, pend := b.pend && !pendClearBit wdata }

/-- What an operation answers, in terms of the state it is performed in. -/
def answer : Instr → Block → Option Response
  | .rdTimeUs, b => some { reg := .timeUs, rdata := us b }
  | .rdTimeMs, b => some { reg := .timeMs, rdata := ms b }
  | .rdTicks, b => some { reg := .ticks, rdata := b.ticks }
  | .rdSubtick, b => some { reg := .subtick, rdata := subtickWord b.sub }
  | .rdBtnPoll, b => some { reg := .btnPoll, rdata := buttonWord b.pin (poll b).status }
  | .rdBtnStatus, b => some { reg := .btnStatus, rdata := buttonWord b.pin b.status }
  | .wrBtnCtrl _, _ => none
  | .wrDuty _, _ => none
  | .rdSpk, b => some { reg := .spk, rdata := spkWord b.spkEn }
  | .wrSpk _, _ => none
  | .rdWake, b => some { reg := .wake, rdata := wakeWord b.pend b.arm }
  | .wrWake _, _ => none

/-- Every operation, said once: it answers a next state with the block of `effect` and the data of `answer`. -/
theorem exec_eq (i : Instr) (s : State) :
    exec i s = .next { s with block := effect i s.block, resp := answer i s.block } := by
  cases i <;> rfl

/-- The block after an event that is answered by a next state (10_state.md R37). -/
theorem perform_cases {e : Event} {s t : State} (h : perform e s = .next t) :
    (e = .tb ∧ t = { s with block := tbBlock s.block, resp := none }) ∨
    (∃ v, e = .pin v ∧ t = { s with block := pinBlock v s.block, resp := none }) ∨
    (e = .reset ∧ t = { s with block := resetBlock s.block, resp := none }) ∨
    ∃ d wdata i, e = .bus d wdata ∧ decode d wdata = .ok i ∧
      t = { s with block := effect i s.block, resp := answer i s.block } := by
  cases e with
  | tb => exact .inl ⟨rfl, by simpa [perform] using h⟩
  | pin v => exact .inr (.inl ⟨v, rfl, by simpa [perform] using h⟩)
  | reset => exact .inr (.inr (.inl ⟨rfl, by simpa [perform] using h⟩))
  | bus d wdata =>
    obtain ⟨i, hd, hi⟩ := access_eq_next h
    rw [exec_eq] at hi
    exact .inr (.inr (.inr ⟨d, wdata, i, rfl, hd, by injection hi with hi; exact hi.symm⟩))

end Sys2Proof.Machine
end

