-- ==== Sys2Proof/Laws/PerInstr.lean ====
section
/-! SUPPORT. The per-instruction family RoundTrip: the access an operation is (30_encoding.md R72) is legal, and is decoded to
that operation with its data word whole. -/

namespace Sys2Proof.Laws.RoundTrip

def Statement (i : Instr) : Prop :=
  i.wellFormed = true → Descriptor.wellFormed (encode i).1 = true ∧ decode (encode i).1 (encode i).2 = .ok i

theorem rdTimeUs : Statement .rdTimeUs := fun _ => ⟨rfl, rfl⟩
theorem rdTimeMs : Statement .rdTimeMs := fun _ => ⟨rfl, rfl⟩
theorem rdTicks : Statement .rdTicks := fun _ => ⟨rfl, rfl⟩
theorem rdSubtick : Statement .rdSubtick := fun _ => ⟨rfl, rfl⟩
theorem rdBtnPoll : Statement .rdBtnPoll := fun _ => ⟨rfl, rfl⟩
theorem rdBtnStatus : Statement .rdBtnStatus := fun _ => ⟨rfl, rfl⟩
theorem wrBtnCtrl (wdata : Word) : Statement (.wrBtnCtrl wdata) := fun _ => ⟨(by decide : Descriptor.wellFormed 0x198 = true), decode_wrBtnCtrl wdata⟩
theorem wrDuty (wdata : Word) : Statement (.wrDuty wdata) := fun _ => ⟨(by decide : Descriptor.wellFormed 0x19C = true), decode_wrDuty wdata⟩
theorem rdSpk : Statement .rdSpk := fun _ => ⟨rfl, rfl⟩
theorem wrSpk (wdata : Word) : Statement (.wrSpk wdata) := fun _ => ⟨(by decide : Descriptor.wellFormed 0x1A0 = true), decode_wrSpk wdata⟩
theorem rdWake : Statement .rdWake := fun _ => ⟨rfl, rfl⟩
theorem wrWake (wdata : Word) : Statement (.wrWake wdata) := fun _ => ⟨(by decide : Descriptor.wellFormed 0x1A4 = true), decode_wrWake wdata⟩

end Sys2Proof.Laws.RoundTrip
end

