-- ==== Sys2Proof/Laws/Runs.lean ====
section
/-! SUPPORT. The step and the runs of the machine, said over events: one lemma each for no event and for one more. -/

namespace Sys2Proof.Safety

open Sys2Proof Sys2Proof.Machine

/-- The step performs the event at the head of those waiting. -/
theorem step_cons {s : State} {e : Event} {es : List Event} (h : s.pending = e :: es) :
    step s = perform e { s with pending := es } := by
  obtain ⟨b, r, p, n⟩ := s
  obtain rfl : p = e :: es := h
  rfl

/-- The step performs the next event, wherever it comes from. -/
theorem step_of_nextEvent {s : State} {e : Event} (h : nextEvent s = e) : step s = perform e (takeEvent s) := by
  subst h
  rfl

theorem step_deliver_cons (e : Event) (es : List Event) (s : State) :
    step (deliver (e :: es) s) = perform e (deliver es s) := rfl

/-- Performing an event neither reads nor writes the events waiting. -/
theorem perform_pending (e : Event) (s : State) (p : List Event) {t : State} (h : perform e s = .next t) :
    perform e { s with pending := p } = .next { t with pending := p } := by
  obtain ⟨rfl, rfl⟩ | ⟨v, rfl, rfl⟩ | ⟨rfl, rfl⟩ | ⟨d, w, i, rfl, hd, rfl⟩ := perform_cases h
  · rfl
  · rfl
  · rfl
  · simp [perform, access_ok hd, exec_eq]

theorem perform_keeps {e : Event} {s t : State} (h : perform e s = .next t) :
    t.pending = s.pending ∧ t.envIndex = s.envIndex := by
  obtain ⟨_, rfl⟩ | ⟨_, _, rfl⟩ | ⟨_, rfl⟩ | ⟨_, _, _, _, _, rfl⟩ := perform_cases h <;> exact ⟨rfl, rfl⟩

theorem runsTo_nil (s t : State) : RunsTo [] s t ↔ s = t := by
  change Host.Outcome.next (deliver [] s) = Host.Outcome.next t ↔ s = t
  constructor
  · intro h
    injection h
  · rintro rfl
    rfl

theorem run_succ (n : Nat) (s : State) :
    Host.Core.run Sys2Proof.core (n + 1) s =
      match step s with
      | .next u => Host.Core.run Sys2Proof.core n u
      | .fault r => .fault r
      | .refused r => .refused r := by
  have hcore : step s = Sys2Proof.core.step s := rfl
  cases hs : step s <;> rw [hcore] at hs <;> simp only [Host.Core.run, hs]

/-- A run of one more event is that event performed, then the run of the rest. -/
theorem runsTo_cons (e : Event) (es : List Event) (s t : State) :
    RunsTo (e :: es) s t ↔ ∃ u, perform e s = .next u ∧ RunsTo es u t := by
  have hd : deliver es s = { s with pending := es ++ s.pending } := rfl
  unfold RunsTo
  rw [List.length_cons, run_succ, step_deliver_cons]
  constructor
  · intro h
    split at h
    · next u hu =>
      have hback := perform_pending e (deliver es s) s.pending hu
      refine ⟨{ u with pending := s.pending }, hback, ?_⟩
      have hk := (perform_keeps hu).1
      have : deliver es { u with pending := s.pending } = u := by
        obtain ⟨b, r, p, n⟩ := u
        simp only [deliver] at hk ⊢
        rw [hk]
      rw [this]
      exact h
    · cases h
    · cases h
  · rintro ⟨u, hu, h⟩
    have hk := (perform_keeps hu).1
    have := perform_pending e s (es ++ s.pending) hu
    rw [hd, this]
    have hu' : deliver es u = { u with pending := es ++ s.pending } := by
      simp [deliver, hk]
    rw [hu'] at h
    exact h

/-- A run of TB events alone: it is answered, and counts them (40_timebase.md R100). -/
theorem runsTo_tbs (n : Nat) (s : State) :
    ∃ t, RunsTo (List.replicate n .tb) s t ∧ t.block = tbBlock^[n] s.block := by
  induction n generalizing s with
  | zero => exact ⟨s, (runsTo_nil s s).2 rfl, rfl⟩
  | succ n ih =>
    obtain ⟨t, ht, hb⟩ := ih { s with block := tbBlock s.block, resp := none }
    exact ⟨t, (runsTo_cons _ _ _ _).2 ⟨_, rfl, ht⟩, by simpa using hb⟩

/-- Runs compose, so that a long run is shown from short ones. -/
theorem runsTo_trans {es es' : List Event} {s u t : State} (h : RunsTo es s u) (h' : RunsTo es' u t) :
    RunsTo (es ++ es') s t := by
  induction es generalizing s with
  | nil => rwa [(runsTo_nil s u).1 h]
  | cons e es ih =>
    obtain ⟨v, hv, hu⟩ := (runsTo_cons _ _ _ _).1 h
    exact (runsTo_cons _ _ _ _).2 ⟨v, hv, ih hu⟩

/-! ### What a run shows, event by event -/

theorem along_cons {α : Type} (f : Event → State → List α) {e : Event} {es : List Event} {s u : State}
    (h : perform e s = .next u) : along f (e :: es) s = f e s ++ along f es u := by
  simp [along, h]

theorem along_append {α : Type} (f : Event → State → List α) {es es' : List Event} {s u : State}
    (h : RunsTo es s u) : along f (es ++ es') s = along f es s ++ along f es' u := by
  induction es generalizing s with
  | nil => rw [(runsTo_nil s u).1 h]; rfl
  | cons e es ih =>
    obtain ⟨v, hv, hu⟩ := (runsTo_cons _ _ _ _).1 h
    rw [List.cons_append, along_cons f hv, along_cons f hv, ih hu, List.append_assoc]

theorem samples_append {es es' : List Event} {s u : State} (h : RunsTo es s u) :
    samples (es ++ es') s = samples es s ++ samples es' u := along_append _ h

/-- TB events sample nothing (41_button.md R134). -/
theorem samples_tbs (n : Nat) (s : State) : samples (List.replicate n .tb) s = [] := by
  induction n generalizing s with
  | zero => rfl
  | succ n ih =>
    rw [List.replicate_succ, samples, along_cons _ (rfl : perform .tb s = _)]
    exact ih _

theorem tbCount_tbs (n : Nat) : tbCount (List.replicate n .tb) = n := by
  simp [tbCount, List.countP_replicate]

end Sys2Proof.Safety
end

