-- ==== Sys2Proof/Laws/Timebase.lean ====
section
/-! SUPPORT. What TB events do to the elapsed time of the debouncer, and a guard interval followed by a poll. -/

namespace Sys2Proof.Machine

open Sys2Proof.Safety

theorem us_tbBlock (b : Block) : us (tbBlock b) = us b + 1 := by
  apply BitVec.eq_of_toNat_eq
  have hs := b.sub.isLt
  rw [BitVec.toNat_add, us_toNat, us_toNat, fullTime_eq, fullTime_eq, tbBlock_ticks, tbBlock_sub]
  split
  · next h =>
    have h' : b.sub.toNat = 255 := by simp [h]
    simp only [BitVec.toNat_add, h']
    simp
    omega
  · next h =>
    have h' : b.sub.toNat ≠ 255 := fun e => h (BitVec.eq_of_toNat_eq (by simpa using e))
    simp only [BitVec.toNat_add]
    simp
    omega

theorem elapsed_tbBlock (b : Block) : elapsed (tbBlock b) = elapsed b + 1 := by
  simp only [elapsed, us_tbBlock, tbBlock_last]
  ring

theorem elapsed_tbs (n : Nat) (b : Block) : elapsed (tbBlock^[n] b) = elapsed b + BitVec.ofNat 32 n := by
  induction n generalizing b with
  | zero => simp
  | succ n ih =>
    rw [Function.iterate_succ_apply, ih, elapsed_tbBlock, BitVec.ofNat_add, BitVec.add_assoc]
    exact congrArg _ (BitVec.add_comm _ _)

theorem tbs_keep (n : Nat) (b : Block) :
    (tbBlock^[n] b).status = b.status ∧ (tbBlock^[n] b).pin = b.pin ∧ (tbBlock^[n] b).last = b.last := by
  induction n generalizing b with
  | zero => exact ⟨rfl, rfl, rfl⟩
  | succ n ih =>
    rw [Function.iterate_succ_apply]
    simpa using ih (tbBlock b)

/-- GUARD_US units and then a poll, from just after an accepted sample: the poll is accepted, and it is again just after
one (41_button.md R133, R134). -/
theorem guard_then_poll (s : State) (h : elapsed s.block = 0) (wdata : Word) :
    ∃ u, RunsTo (List.replicate 3000 .tb ++ [.bus 0x090#9 wdata]) s u ∧
      u.block.status = nextStatus s.block.status s.block.pin ∧ u.block.pin = s.block.pin ∧ elapsed u.block = 0 ∧
      samples (List.replicate 3000 .tb ++ [.bus 0x090#9 wdata]) s = [(s.block.status, s.block.pin)] := by
  obtain ⟨m, hm, hb⟩ := runsTo_tbs 3000 s
  have hst : m.block.status = s.block.status := by rw [hb, (tbs_keep 3000 s.block).1]
  have hpin : m.block.pin = s.block.pin := by rw [hb, (tbs_keep 3000 s.block).2.1]
  have hacc : accepted m.block = true := by
    rw [accepted_iff, hb, elapsed_tbs, h]
    decide
  have hp : perform (.bus 0x090#9 wdata) m = .next _ :=
    (access_ok (decode_rdBtnPoll wdata) m).trans (exec_eq _ m)
  refine ⟨_, runsTo_trans hm ((runsTo_cons _ _ _ _).2 ⟨_, hp, (runsTo_nil _ _).2 rfl⟩), ?_, ?_, ?_, ?_⟩
  · simp only [effect, poll_status, hacc, if_true, hst, hpin]
  · simp only [effect, poll_pin, hpin]
  · have hus : us (poll m.block) = us m.block := us_congr (by simp) (by simp)
    simp [effect, elapsed, hus, hacc]
  · rw [samples_append hm, samples_tbs, samples, along_cons _ hp]
    simp [isPoll, opOf, hacc, along, hst, hpin]

end Sys2Proof.Machine
end

