-- ==== Sys2Proof/Tests/Slice0.lean ====
section
/-! SUPPORT. The model's own tests, the values from 95_test_vectors.md where a comment says so; and for every statement with
hypotheses a state that meets them. -/

namespace Sys2Proof.Tests

open Sys2Proof Sys2Proof.Machine Sys2Proof.Safety

/-! ### Helpers -/

/-- Reset with PIN = p (95_test_vectors.md). -/
def after (p : Bool) : Block :=
  { ticks := 0, sub := 0, status := .idle, last := 0, pin := p, duty := 0, spkEn := false, arm := false, pend := false }

/-- The block at full time T. -/
def atTime (T : Nat) (b : Block) : Block :=
  { b with ticks := BitVec.ofNat 32 (T / 256), sub := BitVec.ofNat 8 (T % 256) }

def state (b : Block) (es : List Event) : State := { block := b, resp := none, pending := es, envIndex := 0 }

/-- The data word a step answers. -/
def rdata : Host.Outcome State Fault Refusal → Option Word
  | .next t => t.resp.map (·.rdata)
  | .fault _ => none
  | .refused _ => none

/-- The block a step leaves. -/
def block : Host.Outcome State Fault Refusal → Option Block
  | .next t => some t.block
  | .fault _ => none
  | .refused _ => none

def faultOf : Host.Outcome State Fault Refusal → Option Fault
  | .next _ => none
  | .fault r => some r
  | .refused _ => none

/-! ### WellFormed: each check refuses an ill-formed access -/

/-- Byte read of TIME_US, 0x000 (L2.5). -/
theorem test_wf_size_refused : sizeLegal 0x000 = false ∧ Descriptor.wellFormed 0x000 = false := by decide

/-- Word read at 0x02, 0x082 (L2.5). -/
theorem test_wf_align_refused : alignLegal 0x082 = false ∧ Descriptor.wellFormed 0x082 = false := by decide

/-- Word read at 0x28, 0x0A8 (L2.5). -/
theorem test_wf_mapped_refused : mappedLegal 0x0A8 = false ∧ Descriptor.wellFormed 0x0A8 = false := by decide

/-- Word read of DUTY, 0x09C; word write of TIME_US, 0x180 (L2.5). -/
theorem test_wf_direction_refused :
    directionLegal 0x09C = false ∧ directionLegal 0x180 = false ∧ Descriptor.wellFormed 0x09C = false := by decide

/-! ### Decode: W SIZE OFF written out bit by bit from 30_encoding.md R72 -/

theorem test_decode_RD_TIME_US : decodeTableWord 16 0b010000000 = some .rdTimeUs := by decide
theorem test_decode_RD_TIME_MS : decodeTableWord 16 0b010000100 = some .rdTimeMs := by decide
theorem test_decode_RD_TICKS : decodeTableWord 16 0b010001000 = some .rdTicks := by decide
theorem test_decode_RD_SUBTICK : decodeTableWord 16 0b010001100 = some .rdSubtick := by decide
theorem test_decode_RD_BTN_POLL : decodeTableWord 16 0b010010000 = some .rdBtnPoll := by decide
theorem test_decode_RD_BTN_STATUS : decodeTableWord 16 0b010010100 = some .rdBtnStatus := by decide
theorem test_decode_WR_BTN_CTRL : decodeTableWord 48 (0b110011000 + 2 ^ 16 * 0xFFFFFFFE) = some (.wrBtnCtrl 0xFFFFFFFE) := by
  decide
theorem test_decode_WR_DUTY : decodeTableWord 48 (0b110011100 + 2 ^ 16 * 0x1FF) = some (.wrDuty 0x1FF) := by decide
theorem test_decode_RD_SPK : decodeTableWord 16 0b010100000 = some .rdSpk := by decide
theorem test_decode_WR_SPK : decodeTableWord 48 (0b110100000 + 2 ^ 16) = some (.wrSpk 1) := by decide
theorem test_decode_RD_WAKE : decodeTableWord 16 0b010100100 = some .rdWake := by decide
theorem test_decode_WR_WAKE : decodeTableWord 48 (0b110100100 + 2 ^ 16 * 3) = some (.wrWake 3) := by decide

/-- A bit the bus has no line for. -/
theorem test_decode_empty_bit_refused : decodeTableWord 16 (0b010000000 + 2 ^ 9) = none := by decide

/-- The priority rows of L2.5: 0x029 is SIZE, 0x0AA MISALIGNED, 0x1BC UNMAPPED, 0x190 DIRECTION. -/
theorem test_decode_priority :
    decode 0x029 0 = .error .size ∧ decode 0x0AA 0 = .error .misaligned ∧ decode 0x1BC 0 = .error .unmapped ∧
      decode 0x190 1 = .error .direction := ⟨rfl, rfl, rfl, rfl⟩

/-! ### The operations (L2.1 to L2.4) -/

/-- L2.1, T = 0x123456789A: all four reads. -/
theorem test_rd_time :
    let s := state (atTime 0x123456789A (after true)) []
    rdata (exec .rdTimeUs s) = some 0x3456789A ∧ rdata (exec .rdTimeMs s) = some 0x4A90BE5 ∧
      rdata (exec .rdTicks s) = some 0x12345678 ∧ rdata (exec .rdSubtick s) = some 0x9A := by decide

/-- L2.1, T = 2^40 - 1 and one TB: every counter wraps. -/
theorem test_tb_wraps :
    block (step (state (atTime (2 ^ 40 - 1) (after true)) [.tb])) = some (after true) := by decide

/-- L2.2 row 10: accepted at elapsed = 3000. -/
theorem test_poll_at_guard :
    let s := state { atTime 10000 (after false) with last := 7000 } []
    rdata (exec .rdBtnPoll s) = some 0x1 ∧ (block (exec .rdBtnPoll s)).map (·.last) = some 10000 := by decide

/-- L2.2 row 9: rejected at elapsed = 2999. -/
theorem test_poll_below_guard :
    let s := state { atTime 10000 (after false) with last := 7001 } []
    rdata (exec .rdBtnPoll s) = some 0x0 ∧ block (exec .rdBtnPoll s) = some s.block := by decide

/-- L2.2 row 13: accepted across the wrap of the µs time. -/
theorem test_poll_across_wrap :
    let s := state { atTime 0x400 (after false) with last := 0xFFFFF000 } []
    rdata (exec .rdBtnPoll s) = some 0x1 ∧ (block (exec .rdBtnPoll s)).map (·.last) = some 0x400 := by decide

/-- L2.2 row 15, and the codes of 10_state.md R30. -/
theorem test_peek :
    rdata (exec .rdBtnStatus (state (after true) [])) = some 0x4 ∧
      rdata (exec .rdBtnStatus (state { after false with status := .pressed } [])) = some 0x1 ∧
      rdata (exec .rdBtnStatus (state { after false with status := .held } [])) = some 0x2 ∧
      rdata (exec .rdBtnStatus (state { after true with status := .released } [])) = some 0x7 := by decide

/-- L2.2 rows 17 and 18. -/
theorem test_btn_ctrl :
    let s := state { atTime 21000 (after true) with status := .released } []
    block (exec (.wrBtnCtrl 0xFFFFFFFE) s) = some s.block ∧
      block (exec (.wrBtnCtrl 1) s) = some { s.block with status := .idle, last := 21000 } := by decide

/-- L2.4: truncation. -/
theorem test_duty :
    (block (exec (.wrDuty 0x1FF) (state (after true) []))).map (·.duty) = some 255 ∧
      (block (exec (.wrDuty 0xFFFFFF80) (state (after true) []))).map (·.duty) = some 128 := by decide

/-- L2.4: `wr SPK, 0xFFFFFFFF`, then `wr SPK, 2`. -/
theorem test_spk :
    (block (exec (.wrSpk 0xFFFFFFFF) (state (after true) []))).map (·.spkEn) = some true ∧
      (block (exec (.wrSpk 2) (state { after true with spkEn := true } []))).map (·.spkEn) = some false ∧
      rdata (exec .rdSpk (state { after true with spkEn := true } [])) = some 1 := by decide

/-- L2.3 rows 3, 5, 7 and 10. -/
theorem test_wake :
    rdata (exec .rdWake (state { after false with pend := true } [])) = some 2 ∧
      (block (exec (.wrWake 1) (state { after true with pend := true } []))).map (fun b => (b.arm, b.pend)) =
        some (true, true) ∧
      (block (exec (.wrWake 2) (state { after true with pend := true } []))).map (fun b => (b.arm, b.pend)) =
        some (false, false) ∧
      (block (exec (.wrWake 0) (state { after true with pend := true } []))).map (fun b => (b.arm, b.pend)) =
        some (false, true) := by decide

/-- L2.3 rows 2 and 8: the same level does not fire; a rising edge does. -/
theorem test_pin :
    block (step (state { after true with arm := true } [.pin true])) = some { after true with arm := true } ∧
      block (step (state { after false with arm := true } [.pin true])) = some { after true with pend := true } := by
  decide

/-- L2.4: DUTY = 128 at SUB = 127 and 128; DUTY = 255 at SUB = 255. -/
theorem test_pwm :
    pwm { after true with duty := 128, sub := 127 } = true ∧ pwm { after true with duty := 128, sub := 128 } = false ∧
      pwm { after true with duty := 255, sub := 255 } = false := by decide

/-- L2.5: a byte write of DUTY, 0x11C. -/
theorem test_bus_error : faultOf (step (state (after true) [.bus 0x11C 5])) = some (.busError .size) := by decide

/-- L3 P6: `wr DUTY, 7`, `rd DUTY -> x` faults with DUTY = 7. -/
theorem test_script_P6 :
    let st : ScriptState := { machine := state (after true) [], vars := [], tbs := 0, schedule := [] }
    runScript 5 (.line (.wr .duty 7) (.line (.rd .duty (some 0)) .done)) st =
      .faulted (.busError .direction) { st with machine := state { after true with duty := 7 } [] } := by decide

/-- `env at 1: pin 0` comes right after the first TB of a wait; a poll binds its word (R79). -/
theorem test_script_env :
    let st : ScriptState :=
      { machine := state { after true with last := 4000 } [], vars := [], tbs := 0, schedule := [] }
    (match runScript 9 (.line (.envAt 1 false) (.line (.wait 2) (.line (.pseudo .poll (some 0)) .done))) st with
      | .finished st' => some (st'.lookup 0, st'.machine.block.sub)
      | _ => none) = some (0x1, 2) := by decide

/-- The next step after reset performs the access placed there. -/
theorem test_first_step_after_reset :
    step (State.reset.withFetchWord 16 0x19C) = exec (.wrDuty 0) State.reset := rfl

/-! ### Witnesses: states that meet the hypotheses of the statements -/

def busy : Block :=
  { ticks := 3, sub := 232, status := .held, last := 17, pin := true, duty := 7, spkEn := true, arm := true, pend := false }

theorem witness_ResetEventSetsEveryFieldButPin : nextEvent (state busy [.reset, .tb]) = .reset := rfl

theorem witness_LaunchStateIsAResetState :
    ∃ t, nextEvent (state busy [.reset]) = .reset ∧ step (state busy [.reset]) = .next t := ⟨_, rfl, rfl⟩

theorem witness_TbEventCountsAndCarries :
    nextEvent (state busy [.tb]) = .tb ∧ (state { busy with sub := 255 } [.tb]).block.sub = 255 ∧
      (state { busy with sub := 254 } [.tb]).block.sub ≠ 255 := by decide

theorem witness_FullTimeCountsTbEvents :
    (∃ t, nextEvent (state busy [.tb]) = .tb ∧ step (state busy [.tb]) = .next t) ∧
      ∃ t, (∀ e ∈ [Event.tb, .pin false], e ≠ .reset) ∧ RunsTo (.reset :: [.tb, .pin false]) (state busy []) t :=
  ⟨⟨_, rfl, rfl⟩, _, by decide, rfl⟩

theorem witness_ModularElapsedTimeIsExact (n : Nat) (_ : n = 2 ^ 32 - 1 ∨ n = 2 ^ 32) :
    ∃ t, (∀ e ∈ List.replicate n Event.tb, e ≠ .reset) ∧ RunsTo (List.replicate n .tb) (state busy []) t ∧
      tbCount (List.replicate n .tb) = n := by
  obtain ⟨t, ht, _⟩ := runsTo_tbs n (state busy [])
  exact ⟨t, fun e he => by rw [List.eq_of_mem_replicate he]; decide, ht, tbCount_tbs n⟩

theorem witness_MillisecondTimeIsTheFlooredFullTime : (0 : Nat) ≤ 1099511627 ∧ (1099511627 : Nat) ≤ 1099511627 := by
  decide

theorem witness_OverflowWrapsSilently :
    fullTime (atTime (2 ^ 40 - 1001) busy) + 1000 < 2 ^ 40 ∧ fullTime (atTime (2 ^ 40 - 1) busy) = 2 ^ 40 - 1 ∧
      fullTime (atTime (2 ^ 32 - 1) busy) = 2 ^ 32 - 1 := by decide

theorem witness_OnlyTbAndResetChangeTheTimebase :
    (∃ t, step (state busy [.pin false]) = .next t ∧ nextEvent (state busy [.pin false]) ≠ .tb ∧
      nextEvent (state busy [.pin false]) ≠ .reset) ∧ nextEvent (state busy [.tb]) = .tb :=
  ⟨⟨_, rfl, by decide, by decide⟩, rfl⟩

theorem witness_RdTimeUsReturnsTheMicrosecondTime :
    (0b01#2 ≠ 0b10#2 ∧ 0b11#2 ≠ 0b10#2) ∧
      (let b := (state { busy with ticks := 0x00FFFFFF, sub := 0xFF } []).block; b.ticks = 0x00FFFFFF ∧ b.sub = 0xFF) ∧
      busy.ticks = 3 ∧ busy.sub = 232 := by decide

theorem witness_RdTimeMsReturnsTheMillisecondTime :
    fullTime (atTime 999 busy) = 999 ∧ fullTime (atTime 1000 busy) = 1000 ∧
      fullTime (atTime (2 ^ 32 - 1) busy) = 2 ^ 32 - 1 ∧ fullTime (atTime (2 ^ 32) busy) = 2 ^ 32 ∧
      fullTime (atTime (2 ^ 40 - 1) busy) = 2 ^ 40 - 1 ∧
      (atTime 0x123456789A busy).ticks = 0x12345678 ∧ (atTime 0x123456789A busy).sub = 0x9A := by decide

theorem witness_RdTicksReturnsTheTickCounter :
    ∃ t, step (state { busy with sub := 255 } [.tb]) = .next t ∧ t.block.ticks ≠ busy.ticks :=
  ⟨_, rfl, by decide⟩

theorem witness_RdBtnPollPollsAfterTheGuard :
    let s (l : Word) := state { atTime 10000 busy with last := l } []
    3000 ≤ ((us (s 7000).block).toNat + 2 ^ 32 - (s 7000).block.last.toNat) % 2 ^ 32 ∧
      ((us (s 7001).block).toNat + 2 ^ 32 - (s 7001).block.last.toNat) % 2 ^ 32 < 3000 := by decide

theorem witness_RejectedPollChangesNothing :
    let s := state { atTime 10000 busy with last := 7001 } [.bus 0x090 0]
    nextEvent s = .bus 0x090#9 0 ∧ (elapsed s.block).toNat < 3000 := by decide

theorem witness_RdBtnStatusPeeksWithoutPolling :
    (state (after true) []).block.status = .idle ∧ (state (after true) []).block.pin = true := by decide

theorem witness_WrBtnCtrlResetsTheDebouncer :
    (0xFFFFFFFF#32).toNat % 2 = 1 ∧ (0xFFFFFFFE#32).toNat % 2 = 0 := by decide

theorem witness_OneReleaseBetweenTwoPresses :
    ∃ (s t : State) (es : List Event), (∀ e ∈ es, restartsDebouncer e = false) ∧ RunsTo es s t ∧
      s.block.status = .pressed ∧ t.block.status = .pressed ∧ entriesInto .pressed es s = 1 := by
  let s := state { after true with status := .pressed } []
  have e0 : elapsed { after true with status := .pressed } = 0 := by decide
  obtain ⟨u, r1, st1, p1, e1, sm1⟩ := guard_then_poll s e0 0
  obtain ⟨v, r2, st2, p2, e2, sm2⟩ := guard_then_poll u e1 0
  let w : State := { v with block := pinBlock false v.block, resp := none }
  have rw' : RunsTo [.pin false] v w := (runsTo_cons _ _ _ _).2 ⟨w, rfl, (runsTo_nil _ _).2 rfl⟩
  have ew : elapsed w.block = 0 := by
    have : us w.block = us v.block := us_congr (by simp [w]) (by simp [w])
    have hl : w.block.last = v.block.last := by simp [w]
    rw [elapsed, this, hl]
    exact e2
  obtain ⟨t, r3, st3, _, _, sm3⟩ := guard_then_poll w ew 0
  have hp : w.block.pin = false := by simp [w]
  have hs : w.block.status = .idle := by simp [w, st2, st1, p1, s, after, state, nextStatus]
  refine ⟨s, t, (List.replicate 3000 .tb ++ [.bus 0x090#9 0]) ++ ((List.replicate 3000 .tb ++ [.bus 0x090#9 0]) ++
    ([.pin false] ++ (List.replicate 3000 .tb ++ [.bus 0x090#9 0]))), ?_, ?_, rfl, ?_, ?_⟩
  · intro e he
    simp only [List.mem_append, List.mem_replicate, List.mem_singleton] at he
    rcases he with (⟨-, rfl⟩ | rfl) | (⟨-, rfl⟩ | rfl) | rfl | ⟨-, rfl⟩ | rfl <;> rfl
  · exact runsTo_trans r1 (runsTo_trans r2 (runsTo_trans rw' r3))
  · rw [st3, hs, hp]
    rfl
  · have hpin : samples [.pin false] v = [] := rfl
    rw [entriesInto, samples_append r1, samples_append r2, samples_append rw', sm1, sm2, sm3, hpin, hs, hp, st1, p1]
    rfl

theorem witness_BouncedPressIsObservedOnce :
    ∃ (s u t : State) (x y x' y' : List Event),
      (∀ e ∈ x ++ y ++ x' ++ y', restartsDebouncer e = false) ∧
      tbCount x + 1 = 3000 ∧ levelAfter false x = false ∧ (∀ e ∈ y, isPin e = false) ∧
      tbCount x' + 1 = 3000 ∧ levelAfter true x' = true ∧ (∀ e ∈ y', isPin e = false) ∧
      RunsTo (.pin false :: x ++ .tb :: y) s u ∧ RunsTo (.pin true :: x' ++ .tb :: y') u t ∧
      (samples (.pin false :: x ++ .tb :: y) s).find? (fun a => !a.2) = some (.idle, false) ∧
      ∃ a ∈ samples (.pin true :: x' ++ .tb :: y') u, a.2 = true := by
  let s := state (after true) []
  let p : State := { s with block := pinBlock false s.block, resp := none }
  have e0 : elapsed (pinBlock false (after true)) = 0 := by decide
  obtain ⟨u, r1, _, _, e1, sm1⟩ := guard_then_poll p e0 0
  let q : State := { u with block := pinBlock true u.block, resp := none }
  have eq : elapsed q.block = 0 := by
    have : us q.block = us u.block := us_congr (by simp [q]) (by simp [q])
    have hl : q.block.last = u.block.last := by simp [q]
    rw [elapsed, this, hl]
    exact e1
  obtain ⟨t, r2, _, _, _, sm2⟩ := guard_then_poll q eq 0
  have hlist (v : Bool) : Event.pin v :: List.replicate 2999 .tb ++ .tb :: [.bus 0x090#9 0] =
      .pin v :: (List.replicate 3000 .tb ++ [.bus 0x090#9 0]) := by
    rw [List.replicate_succ' (n := 2999), List.append_assoc]
    rfl
  have hlev (v : Bool) (n : Nat) : levelAfter v (List.replicate n .tb) = v := by
    induction n with
    | zero => rfl
    | succ n ih => exact ih
  have c1 := along_cons (fun e s => if isPoll e && accepted s.block then [(s.block.status, s.block.pin)] else [])
    (es := List.replicate 3000 .tb ++ [.bus 0x090#9 0]) (rfl : perform (.pin false) s = .next p)
  have c2 := along_cons (fun e s => if isPoll e && accepted s.block then [(s.block.status, s.block.pin)] else [])
    (es := List.replicate 3000 .tb ++ [.bus 0x090#9 0]) (rfl : perform (.pin true) u = .next q)
  refine ⟨s, u, t, List.replicate 2999 .tb, [.bus 0x090#9 0], List.replicate 2999 .tb, [.bus 0x090#9 0], ?_, ?_,
    hlev _ _, by decide, ?_, hlev _ _, by decide, ?_, ?_, ?_, ?_⟩
  · intro e he
    simp only [List.mem_append, List.mem_replicate, List.mem_singleton] at he
    rcases he with ((⟨-, rfl⟩ | rfl) | ⟨-, rfl⟩) | rfl <;> rfl
  · rw [tbCount_tbs]
  · rw [tbCount_tbs]
  · rw [hlist]
    exact (runsTo_cons _ _ _ _).2 ⟨p, rfl, r1⟩
  · rw [hlist]
    exact (runsTo_cons _ _ _ _).2 ⟨q, rfl, r2⟩
  · rw [hlist, samples, c1]
    change List.find? _ ([] ++ samples _ p) = _
    rw [sm1]
    rfl
  · refine ⟨(q.block.status, q.block.pin), ?_, rfl⟩
    rw [hlist, samples, c2]
    change _ ∈ [] ++ samples _ q
    rw [sm2]
    exact List.mem_singleton.2 rfl

theorem witness_UnsampledPressIsNeverObserved :
    let s := state { atTime 9000 (after true) with last := 17 } []
    let es := [Event.pin false, .tb, .pin true, .bus 0x090#9 0]
    s.block.pin = true ∧ (∃ t, RunsTo es s t) ∧ samples es s = [(.idle, true)] ∧ levelAfter true es = true ∧
      s.block.arm = false ∧ ∀ e ∈ es, armsWake e = false :=
  ⟨rfl, ⟨_, rfl⟩, by decide, rfl, rfl, by decide⟩

theorem witness_ElapsedTimeAliasesAfterALongGap (n : Nat) (_ : n = 2999 ∨ n = 3000 ∨ n = 2 ^ 32) :
    let s := state { busy with last := us busy } []
    s.block.last = us s.block ∧ (∀ e ∈ List.replicate n Event.tb, restartsDebouncer e = false) ∧
      (∃ t, RunsTo (List.replicate n .tb) s t) ∧ samples (List.replicate n .tb) s = [] := by
  refine ⟨by decide, fun e he => by rw [List.eq_of_mem_replicate he]; decide, ?_, samples_tbs n _⟩
  obtain ⟨t, ht, _⟩ := runsTo_tbs n (state { busy with last := us busy } [])
  exact ⟨t, ht⟩

theorem witness_PollRateBoundsTheSampleGap :
    let s := state { busy with last := us busy } []
    let es := [Event.tb, .bus 0x090#9 0]
    1 + 3000 < 2 ^ 32 ∧ s.block.last = us s.block ∧ (∀ e ∈ es, restartsDebouncer e = false) ∧ (∃ t, RunsTo es s t) ∧
      (∀ a m c : List Event, es = a ++ m ++ c → (∀ e ∈ m, isPoll e = false) → tbCount m ≤ 1) ∧ samples es s = [] := by
  refine ⟨by decide, by decide, by decide, ⟨_, rfl⟩, fun a m c h _ => ?_, by decide⟩
  have := congrArg tbCount h
  simp only [tbCount, List.countP_append] at this ⊢
  have h1 : List.countP (· == Event.tb) [Event.tb, .bus 0x090#9 0] = 1 := by decide
  omega

theorem witness_StatusLastsAGuardAfterASample :
    (let s := state { busy with last := us busy } [];
      s.block.last = us s.block ∧ (∀ e ∈ List.replicate 2999 Event.tb, restartsDebouncer e = false) ∧
      tbCount (List.replicate 2999 .tb) < 3000 ∧ ∃ t, RunsTo (List.replicate 2999 .tb) s t) ∧
    ∃ t, let s := state { atTime 9000 busy with status := .released } []
      s.block.status = .released ∧ accepted s.block = true ∧ exec .rdBtnPoll s = .next t := by
  refine ⟨⟨by decide, fun e he => by rw [List.eq_of_mem_replicate he]; decide, by rw [tbCount_tbs]; decide, ?_⟩,
    _, rfl, by decide, rfl⟩
  obtain ⟨t, ht, _⟩ := runsTo_tbs 2999 (state { busy with last := us busy } [])
  exact ⟨t, ht⟩

theorem witness_DebouncerResetRestartsTheGuard :
    (0x1#32).toNat % 2 = 1 ∧ (∀ e ∈ [Event.tb, .bus 0x090#9 0], restartsDebouncer e = false) ∧
      tbCount [Event.tb, .bus 0x090#9 0] < 3000 ∧
      ∃ t, RunsTo (.bus 0x198#9 1 :: [.tb, .bus 0x090#9 0]) (state busy []) t :=
  ⟨by decide, by decide, by decide, _, rfl⟩

theorem witness_PinEventsAloneWriteThePin :
    (nextEvent (state busy [.pin false]) = .pin false ∧ (false ≠ busy.pin ∧ busy.arm = true) ∧
      ¬(true ≠ busy.pin ∧ busy.arm = true)) ∧
      ∃ t, step (state busy [.tb]) = .next t ∧ isPin (nextEvent (state busy [.tb])) = false ∧
        isPoll (nextEvent (state busy [.tb])) = false ∧ restartsDebouncer (nextEvent (state busy [.tb])) = false :=
  ⟨by decide, _, rfl, by decide, by decide, by decide⟩

theorem witness_WakeFiresOnArmedEdgesOnly :
    ∃ t, let s := state busy [.pin false]
      step s = .next t ∧ s.block.pend = false ∧ t.block.pend = true ∧ nextEvent s = .pin (!s.block.pin) ∧
        s.block.arm = true :=
  ⟨_, rfl, rfl, rfl, rfl, rfl⟩

theorem witness_WakeRequestStaysUntilCleared :
    (∃ t, let s := state { busy with pend := true } []
      (∀ e ∈ [Event.tb, .bus 0x1A4#9 1], clearsPend e = false) ∧ RunsTo [.tb, .bus 0x1A4#9 1] s t ∧
        wakeIrq s.block = true) ∧
      ∃ t, clearsPend (nextEvent (state busy [.bus 0x1A4#9 2])) = true ∧ step (state busy [.bus 0x1A4#9 2]) = .next t :=
  ⟨⟨_, by decide, rfl, rfl⟩, _, by decide, rfl⟩

theorem witness_WakeFiresAtMostOncePerArming :
    (∃ t, let s := state busy []
      (∀ e ∈ [Event.pin false, .pin true], armsWake e = false) ∧ RunsTo [.pin false, .pin true] s t ∧
        firings [.pin false, .pin true] s = 1) ∧ (state { busy with arm := false } []).block.arm = false :=
  ⟨⟨_, by decide, rfl, by decide⟩, rfl⟩

theorem witness_RdWakeReturnsPendAndArm :
    ∃ t, let s := state { busy with arm := false, pend := true } [.bus 0x1A4#9 1]
      step s = .next t ∧ ¬(s.block.arm = true ∧ s.block.pend = true) ∧ t.block.arm = true ∧ t.block.pend = true :=
  ⟨_, rfl, by decide, rfl, rfl⟩

theorem witness_WrSpkWritesTheSpeakerEnable : (state { busy with duty := 255 } []).block.duty = 255 := rfl

theorem witness_PwmPeriodHoldsDutyHighUnits :
    ∃ t, (∀ e ∈ List.replicate 256 Event.tb, setsDuty e = false) ∧ tbCount (List.replicate 256 .tb) = 256 ∧
      RunsTo (List.replicate 256 .tb) (state busy []) t := by
  obtain ⟨t, ht, _⟩ := runsTo_tbs 256 (state busy [])
  exact ⟨t, fun e he => by rw [List.eq_of_mem_replicate he]; decide, tbCount_tbs _, ht⟩

theorem witness_MidPeriodDutyWriteSplitsThePeriod (p : Nat) (hp : p = 0 ∨ p = 255) :
    ∃ (t : State) (es es' es'' : List Event), let s := state { busy with sub := 0 } []
      s.block.sub = 0 ∧ p < 256 ∧ (∀ e ∈ es ++ es' ++ es'', setsDuty e = false) ∧ tbCount es = p ∧
        tbCount es' = 256 - p ∧ tbCount es'' = 256 ∧ RunsTo (es ++ .bus 0x19C#9 0xFF :: es' ++ es'') s t := by
  obtain ⟨a, ha, _⟩ := runsTo_tbs p (state { busy with sub := 0 } [])
  have hw : perform (.bus 0x19C#9 0xFF) a = .next _ := (access_ok (decode_wrDuty 0xFF) a).trans (exec_eq _ a)
  obtain ⟨c, hc, _⟩ := runsTo_tbs (256 - p) { a with block := effect (.wrDuty 0xFF) a.block, resp := none }
  obtain ⟨t, ht, _⟩ := runsTo_tbs 256 c
  refine ⟨t, List.replicate p .tb, List.replicate (256 - p) .tb, List.replicate 256 .tb, rfl, by omega, ?_, tbCount_tbs _,
    tbCount_tbs _, tbCount_tbs _, runsTo_trans (runsTo_trans ha ((runsTo_cons _ _ _ _).2 ⟨_, hw, hc⟩)) ht⟩
  intro e he
  simp only [List.mem_append, List.mem_replicate] at he
  rcases he with (⟨-, rfl⟩ | ⟨-, rfl⟩) | ⟨-, rfl⟩ <;> rfl

theorem witness_SpeakerToneHasPeriod256 :
    busy.duty ≠ 0 ∧ (0 < 1 ∧ 1 < 256) ∧ (0 < 255 ∧ 255 < 256) ∧ (after true).duty = 0 := by decide

theorem witness_OutputsFollowTheState :
    (after true).duty = 0 ∧ { after true with duty := 255 }.duty = 255 ∧ busy.spkEn = true ∧
      (after true).spkEn = false := by decide

theorem witness_DriverRegistersAreIndependent :
    (∃ t, step (state busy [.bus 0x19C#9 9]) = .next t ∧ nextEvent (state busy [.bus 0x19C#9 9]) ≠ .reset ∧
      t.block.duty ≠ busy.duty) ∧
      ∃ t, step (state busy [.bus 0x1A0#9 0]) = .next t ∧ nextEvent (state busy [.bus 0x1A0#9 0]) ≠ .reset ∧
        t.block.spkEn ≠ busy.spkEn :=
  ⟨⟨_, rfl, by decide, by decide⟩, _, rfl, by decide, by decide⟩

theorem witness_DecodeAndEncodeAgree :
    (Instr.wrWake 0xFFFFFFFF).wellFormed = true ∧ decode 0x1A4#9 0xFFFFFFFF = .ok (.wrWake 0xFFFFFFFF) ∧
      (0x1A4#9).toNat / 256 = 1 ∧ decode 0x0A4#9 5 = .ok .rdWake ∧ (0x0A4#9).toNat / 256 = 0 :=
  ⟨rfl, decode_wrWake _, by decide, decode_rdWake _, by decide⟩

theorem witness_IllegalAccessGetsTheErrorResponse :
    nextEvent (state busy [.bus 0x09C#9 0]) = .bus 0x09C#9 0 ∧ decode 0x09C#9 0 = .error .direction := ⟨rfl, rfl⟩

theorem witness_LegalOperationsNeverRaise : legalEvent (nextEvent (state busy [.bus 0x1A4#9 3])) = true := by decide

theorem witness_StepRunsTheDecodedOperation :
    nextEvent (state busy [.bus 0x0A4#9 0]) = .bus 0x0A4#9 0 ∧ decode 0x0A4#9 0 = .ok .rdWake ∧
      (state busy [.tb, .reset]).pending = .tb :: [.reset] ∧ (∃ t, step (state busy [.tb, .reset]) = .next t) ∧
      decodeTableWord 16 0x0A4 = some .rdWake :=
  ⟨rfl, decode_rdWake 0, rfl, ⟨_, rfl⟩, by decide⟩

theorem witness_EventsArePerformedInDeliveryOrder : ∃ t, RunsTo [.pin false, .tb] (state busy [.reset]) t := ⟨_, rfl⟩

theorem witness_OnlyThePollReadHasASideEffect :
    (∃ t, nextEvent (state busy [.bus 0x080#9 0]) = .bus 0x080#9 0 ∧ (0x080#9).toNat / 256 = 0 ∧ 0x080#9 ≠ 0x090#9 ∧
      step (state busy [.bus 0x080#9 0]) = .next t) ∧
      ∃ t u, (encode .rdWake).1.toNat / 256 = 0 ∧ Instr.rdWake ≠ .rdBtnPoll ∧ exec .rdWake (state busy []) = .next t ∧
        exec .rdWake t = .next u :=
  ⟨⟨_, rfl, by decide, by decide, rfl⟩, _, _, by decide, by decide, rfl, rfl⟩

theorem witness_RegisterWritesAreIdempotent :
    (∃ t u, exec (.wrWake 2) (state busy []) = .next t ∧ exec (.wrWake 2) t = .next u) ∧
      ∃ t, RunsTo [.bus 0x198#9 1, .tb, .bus 0x198#9 1] (state busy []) t :=
  ⟨⟨_, _, rfl, rfl⟩, _, rfl⟩

theorem witness_OperationsAnswerDataExactlyForReads : ∃ t, exec .rdBtnPoll (state busy [.tb]) = .next t := ⟨_, rfl⟩

theorem witness_StepKeepsTheResponseInvariant :
    ∃ t, let s : State := { state busy [.bus 0x0A4#9 0, .tb] with resp := some { reg := .spk, rdata := 1 } }
      (ResponseShowsRegister s ∧ PendingLegal s) ∧ step s = .next t := by
  refine ⟨_, ⟨fun r hr => ?_, ?_⟩, rfl⟩
  · injection hr with hr
    subst hr
    rfl
  · unfold PendingLegal
    decide

theorem witness_LegalScheduleRunsToItsEnd : PendingLegal (state busy [.bus 0x1A4#9 3, .pin false, .reset]) := by
  unfold PendingLegal
  decide

theorem witness_BusPrimitivesReachTheWindow :
    (3 ≠ 4 ∧ 8 ≠ 4) ∧ Config.ttcbBase + 64 ≤ Config.ttcbBase + 64 := ⟨by decide, Nat.le_refl _⟩

theorem witness_SimultaneousEventOrdersDiffer :
    (let s := state { busy with arm := false } [];
      false ≠ s.block.pin ∧ s.block.arm = false ∧ (∃ t, RunsTo [.bus 0x1A4#9 3, .pin false] s t) ∧
        ∃ t, RunsTo [.pin false, .bus 0x1A4#9 3] s t) ∧
    (let s := state busy [];
      false ≠ s.block.pin ∧ s.block.arm = true ∧ s.block.pend = false ∧
        (∃ t, RunsTo [.bus 0x1A4#9 2, .pin false] s t) ∧ (∃ t, RunsTo [.pin false, .bus 0x1A4#9 2] s t) ∧
        (∃ t, RunsTo [.pin false] s t) ∧ (∃ t, RunsTo [.bus 0x080#9 0] s t) ∧
        (∃ t, RunsTo [.tb, .bus 0x080#9 0] s t) ∧ (∃ t, RunsTo [.pin false, .reset] s t) ∧
        (∃ t, RunsTo [.reset, .pin false] s t) ∧ (∃ t, RunsTo [.bus 0x19C#9 9, .reset] s t) ∧
        ∃ t, RunsTo [.reset, .bus 0x19C#9 9] s t) ∧
    (elapsed { atTime 10000 busy with last := 7001 }).toNat = 2999 ∧
    accepted { atTime 10000 busy with last := 7000 } = true :=
  ⟨⟨by decide, rfl, ⟨_, rfl⟩, _, rfl⟩,
    ⟨by decide, rfl, rfl, ⟨_, rfl⟩, ⟨_, rfl⟩, ⟨_, rfl⟩, ⟨_, rfl⟩, ⟨_, rfl⟩, ⟨_, rfl⟩, ⟨_, rfl⟩, ⟨_, rfl⟩, _, rfl⟩,
    by decide, by decide⟩

theorem witness_SubBlocksDoNotInterfere :
    (∃ t, SameInput (state busy []) (state { busy with duty := 200, spkEn := false } []) ∧
      RunsTo [.pin false, .tb] (state busy []) t) ∧
      ∃ t, SamePwm (state busy []) (state { busy with status := .idle, last := 9, pin := false, arm := false } []) ∧
        RunsTo [.pin false, .tb] (state busy []) t :=
  ⟨⟨_, ⟨rfl, rfl, rfl, rfl, rfl, rfl, rfl⟩, rfl⟩, _, ⟨rfl, rfl, rfl, rfl⟩, rfl⟩

theorem witness_HaltKeepsTheBlockAndTheWake :
    let p (h : Bool) : Platform := { machine := state busy [], cpuHalted := h }
    (p true).cpuHalted = true ∧ (p false).cpuHalted = false ∧ (p true).machine.block.arm = true := by decide

theorem witness_HandshakeWithoutAPressNeverEnds :
    (let st : ScriptState := { machine := state (after true) [], vars := [], tbs := 0, schedule := [] };
      st.schedule = [] ∧ st.machine.block.pin = true ∧ st.machine.block.status = .idle) ∧
      ∃ t, (∀ e ∈ [Event.tb, .pin true, .bus 0x090#9 0], e ≠ .pin false) ∧
        RunsTo [.tb, .pin true, .bus 0x090#9 0] (state (after true) []) t :=
  ⟨⟨rfl, rfl, rfl⟩, _, by decide, rfl⟩

end Sys2Proof.Tests
end

section
/-! SUPPORT. The bus primitives reduced to accesses (00_scope.md R11, 20_memory.md R51, R52, R57). -/

namespace Sys2Proof.Machine

/-! ### The fields of a built descriptor (30_encoding.md R70) -/

theorem fieldSize_descriptorOf (write : Bool) (size : BitVec 2) (off : BitVec 6) :
    fieldSize (descriptorOf write size off) = size :=
  (BitVec.extractLsb'_append_eq_of_le (Nat.le_refl 6)).trans BitVec.extractLsb'_append_eq_right

/-- The size is the first check of the decode procedure (30_encoding.md R71). -/
theorem decode_of_fieldSize_ne {d : Descriptor} (h : fieldSize d ≠ 0b10#2) (wdata : Word) :
    decode d wdata = .error .size := by
  simp [decode, h]

theorem sizeCode_four : sizeCode 4 = 0b10#2 := rfl

theorem sizeCode_ne_word {n : Nat} (h : n ≠ 4) : sizeCode n ≠ 0b10#2 := by
  unfold sizeCode
  split_ifs <;> decide

/-! ### Addresses and the window (20_memory.md R57) -/

theorem selected_iff (addr : Nat) :
    selected addr = true ↔ Config.ttcbBase ≤ addr ∧ addr < Config.ttcbBase + 64 := by
  unfold selected Config.windowBytes
  rw [Bool.and_eq_true, decide_eq_true_iff, decide_eq_true_iff]

theorem selected_base_add (off : BitVec 6) : selected (Config.ttcbBase + off.toNat) = true := by
  have hoff := off.isLt
  exact (selected_iff _).2 ⟨by omega, by omega⟩

theorem selected_outside {addr : Nat} (h : addr < Config.ttcbBase ∨ Config.ttcbBase + 64 ≤ addr) :
    selected addr = false := by
  rw [← Bool.not_eq_true, selected_iff]
  omega

theorem offsetOf_base_add (off : BitVec 6) : offsetOf (Config.ttcbBase + off.toNat) = off := by
  simp [offsetOf]

theorem descriptorAt_base_add (write : Bool) (off : BitVec 6) (n : Nat) :
    descriptorAt write (Config.ttcbBase + off.toNat) n = descriptorOf write (sizeCode n) off := by
  rw [descriptorAt, offsetOf_base_add]

/-! ### The primitives, inside the window and outside it -/

theorem memRead_base_add (off : BitVec 6) (n : Nat) (s : State) :
    memRead (Config.ttcbBase + off.toNat) n s = access (descriptorOf false (sizeCode n) off) 0 s := by
  rw [memRead, if_pos (selected_base_add off), descriptorAt_base_add]

theorem memWrite_base_add (off : BitVec 6) (n : Nat) (v : Word) (s : State) :
    memWrite (Config.ttcbBase + off.toNat) n v s = access (descriptorOf true (sizeCode n) off) v s := by
  rw [memWrite, if_pos (selected_base_add off), descriptorAt_base_add]

theorem memRead_of_not_selected {addr : Nat} (h : selected addr = false) (n : Nat) (s : State) :
    memRead addr n s = .refused .notSelected := by
  simp [memRead, h]

theorem memWrite_of_not_selected {addr : Nat} (h : selected addr = false) (n : Nat) (v : Word) (s : State) :
    memWrite addr n v s = .refused .notSelected := by
  simp [memWrite, h]

/-- An access that is no word gets the error response, at every offset and in both directions (20_memory.md R52). -/
theorem access_of_not_word {n : Nat} (h : n ≠ 4) (write : Bool) (off : BitVec 6) (v : Word) (s : State) :
    access (descriptorOf write (sizeCode n) off) v s = .fault (.busError .size) := by
  apply access_error
  apply decode_of_fieldSize_ne
  rw [fieldSize_descriptorOf]
  exact sizeCode_ne_word h

theorem ttcbBase_mod : Config.ttcbBase % 64 = 0 := Nat.mul_mod_right 64 Config.windowIndex

/-- A word fetch at 0x10 is a poll, the block not telling it from a data read (20_memory.md R51). -/
theorem fetch_btnPoll (s : State) : fetch (Config.ttcbBase + 0x10) 4 s = exec .rdBtnPoll s :=
  calc fetch (Config.ttcbBase + 0x10) 4 s
    _ = access (descriptorOf false (sizeCode 4) 0x10) 0 s := memRead_base_add 0x10 4 s
    _ = exec .rdBtnPoll s := access_ok (decode_rdBtnPoll 0) s

/-- Settles O54: in the window a primitive is the access of its offset, and the size check comes first. -/
theorem busPrimitivesReachTheWindow : Obligations.BusPrimitivesReachTheWindow := by
  refine ⟨fun s off v => ?word, fun s off n v hn => ?size, fun s addr n v hout => ?outside,
    fun _ _ _ => rfl, fetch_btnPoll, ttcbBase_mod⟩
  case word =>
    rw [memRead_base_add, memWrite_base_add, sizeCode_four]
    exact ⟨rfl, rfl⟩
  case size =>
    rw [memRead_base_add, memWrite_base_add]
    exact ⟨access_of_not_word hn false off 0 s, access_of_not_word hn true off v s⟩
  case outside =>
    have hsel := selected_outside hout
    exact ⟨memRead_of_not_selected hsel n s, memWrite_of_not_selected hsel n v s⟩

end Sys2Proof.Machine
end

section
/-! SUPPORT. Two runs of the same events from related states, and the two relations of noninterference: states that agree
on the input block, states that agree on the PWM (00_scope.md R2). -/

namespace Sys2Proof.Safety

open Sys2Proof Sys2Proof.Machine

/-! ### Related runs -/

/-- Any event that one of two related states performs the other performs too, and related states come of it. -/
def StepRespects (R : State → State → Prop) : Prop :=
  ∀ (e : Event) (s s' t : State), R s s' → perform e s = .next t → ∃ t', perform e s' = .next t' ∧ R t t'

theorem runsTo_related {R : State → State → Prop} (hR : StepRespects R) {es : List Event} {s s' t : State}
    (h : R s s') (hrun : RunsTo es s t) : ∃ t', RunsTo es s' t' ∧ R t t' := by
  induction es generalizing s s' with
  | nil =>
    obtain rfl := (runsTo_nil s t).1 hrun
    exact ⟨s', (runsTo_nil _ _).2 rfl, h⟩
  | cons e es ih =>
    obtain ⟨u, hu, hrest⟩ := (runsTo_cons _ _ _ _).1 hrun
    obtain ⟨u', hu', hrel⟩ := hR e s s' u h hu
    obtain ⟨t', ht', hend⟩ := ih hrel hrest
    exact ⟨t', (runsTo_cons _ _ _ _).2 ⟨u', hu', ht'⟩, hend⟩

/-- What is observed of each step alike in related states is observed alike along the two runs. -/
theorem along_related {α : Type} {R : State → State → Prop} (hR : StepRespects R) {f : Event → State → List α}
    (hf : ∀ e s s', R s s' → f e s' = f e s) {es : List Event} {s s' t : State} (h : R s s') (hrun : RunsTo es s t) :
    along f es s' = along f es s := by
  induction es generalizing s s' with
  | nil => rfl
  | cons e es ih =>
    obtain ⟨u, hu, hrest⟩ := (runsTo_cons _ _ _ _).1 hrun
    obtain ⟨u', hu', hrel⟩ := hR e s s' u h hu
    rw [along_cons f hu, along_cons f hu', hf e s s' h, ih hrel hrest]

/-- A relation of the blocks alone is respected by every step when the three events that are no access and the effect of
each operation keep it. -/
theorem stepRespects_of_block {Q : Block → Block → Prop} (htb : ∀ b c, Q b c → Q (tbBlock b) (tbBlock c))
    (hpin : ∀ v b c, Q b c → Q (pinBlock v b) (pinBlock v c)) (hreset : ∀ b c, Q b c → Q (resetBlock b) (resetBlock c))
    (heffect : ∀ i b c, Q b c → Q (effect i b) (effect i c)) : StepRespects fun s s' => Q s.block s'.block := by
  intro e s s' t h ht
  obtain ⟨rfl, rfl⟩ | ⟨v, rfl, rfl⟩ | ⟨rfl, rfl⟩ | ⟨d, wdata, i, rfl, hd, rfl⟩ := perform_cases ht
  · exact ⟨_, rfl, htb _ _ h⟩
  · exact ⟨_, rfl, hpin v _ _ h⟩
  · exact ⟨_, rfl, hreset _ _ h⟩
  · exact ⟨_, (access_ok hd s').trans (exec_eq i s'), heffect i _ _ h⟩

/-! ### What the input block depends on (00_scope.md R2, 10_state.md R23) -/

/-- The blocks agree on the timebase and the input block, in a record of named equations (`sameInput_iff`). -/
structure InputAgrees (b c : Block) : Prop where
  ticks : b.ticks = c.ticks
  sub : b.sub = c.sub
  status : b.status = c.status
  last : b.last = c.last
  pin : b.pin = c.pin
  arm : b.arm = c.arm
  pend : b.pend = c.pend

theorem sameInput_iff (s s' : State) : SameInput s s' ↔ InputAgrees s.block s'.block :=
  ⟨fun ⟨ht, hs, hst, hl, hp, ha, hpe⟩ => ⟨ht, hs, hst, hl, hp, ha, hpe⟩,
    fun ⟨ht, hs, hst, hl, hp, ha, hpe⟩ => ⟨ht, hs, hst, hl, hp, ha, hpe⟩⟩

namespace InputAgrees

variable {b c : Block}

theorem us_eq (h : InputAgrees b c) : us b = us c := us_congr h.ticks h.sub

theorem accepted_eq (h : InputAgrees b c) : accepted b = accepted c := by
  rw [accepted, accepted, elapsed, elapsed, h.us_eq, h.last]

theorem afterTb (h : InputAgrees b c) : InputAgrees (tbBlock b) (tbBlock c) := by
  constructor <;> simp [h.ticks, h.sub, h.status, h.last, h.pin, h.arm, h.pend]

theorem afterPin (h : InputAgrees b c) (v : Bool) : InputAgrees (pinBlock v b) (pinBlock v c) := by
  constructor <;> simp [h.ticks, h.sub, h.status, h.last, h.pin, h.arm, h.pend]

theorem afterReset (h : InputAgrees b c) : InputAgrees (resetBlock b) (resetBlock c) := by
  constructor <;> simp [h.pin]

theorem afterPoll (h : InputAgrees b c) : InputAgrees (poll b) (poll c) := by
  constructor <;> simp [h.ticks, h.sub, h.status, h.last, h.pin, h.arm, h.pend, h.us_eq, h.accepted_eq]

theorem afterBtnReset (h : InputAgrees b c) : InputAgrees (btnReset b) (btnReset c) := by
  constructor <;> simp [h.ticks, h.sub, h.pin, h.arm, h.pend, h.us_eq]

/-- A PWM write touches no field of the agreement; a button or wake operation computes from agreeing fields. -/
theorem afterEffect (h : InputAgrees b c) (i : Instr) : InputAgrees (effect i b) (effect i c) := by
  cases i with
  | rdTimeUs | rdTimeMs | rdTicks | rdSubtick | rdBtnStatus | rdSpk | rdWake => exact h
  | rdBtnPoll => exact h.afterPoll
  | wrBtnCtrl wdata =>
    simp only [effect]
    split
    · exact h.afterBtnReset
    · exact h
  | wrDuty _ | wrSpk _ => exact ⟨h.ticks, h.sub, h.status, h.last, h.pin, h.arm, h.pend⟩
  | wrWake wdata => exact ⟨h.ticks, h.sub, h.status, h.last, h.pin, rfl, congrArg (· && !pendClearBit wdata) h.pend⟩

theorem firesIn_eq {s s' : State} (h : InputAgrees s.block s'.block) (e : Event) : firesIn e s' = firesIn e s := by
  cases e with
  | pin v => simp only [firesIn, h.pin, h.arm]
  | tb | bus _ _ | reset => rfl

end InputAgrees

theorem stepRespects_inputAgrees : StepRespects fun s s' => InputAgrees s.block s'.block :=
  stepRespects_of_block (fun _ _ h => h.afterTb) (fun v _ _ h => h.afterPin v) (fun _ _ h => h.afterReset)
    (fun i _ _ h => h.afterEffect i)

theorem samples_of_inputAgrees {es : List Event} {s s' t : State} (h : InputAgrees s.block s'.block)
    (hrun : RunsTo es s t) : samples es s' = samples es s := by
  refine along_related stepRespects_inputAgrees (fun e u u' hu => ?_) h hrun
  simp only [hu.accepted_eq, hu.status, hu.pin]

theorem firings_of_inputAgrees {es : List Event} {s s' t : State} (h : InputAgrees s.block s'.block)
    (hrun : RunsTo es s t) : firings es s' = firings es s := by
  refine congrArg List.length (along_related stepRespects_inputAgrees (fun e u u' hu => ?_) h hrun)
  simp only [hu.firesIn_eq e]

/-! ### What the PWM depends on (42_pwm.md R170, R172, R174) -/

/-- The blocks agree on the timebase and the PWM, in a record of named equations (`samePwm_iff`). -/
structure PwmAgrees (b c : Block) : Prop where
  ticks : b.ticks = c.ticks
  sub : b.sub = c.sub
  duty : b.duty = c.duty
  spkEn : b.spkEn = c.spkEn

theorem samePwm_iff (s s' : State) : SamePwm s s' ↔ PwmAgrees s.block s'.block :=
  ⟨fun ⟨ht, hs, hd, hk⟩ => ⟨ht, hs, hd, hk⟩, fun ⟨ht, hs, hd, hk⟩ => ⟨ht, hs, hd, hk⟩⟩

namespace PwmAgrees

variable {b c : Block}

theorem pwm_eq (h : PwmAgrees b c) : pwm b = pwm c := by
  simp only [pwm, h.sub, h.duty]

theorem spkPad_eq (h : PwmAgrees b c) : spkPad b = spkPad c := by
  rw [spkPad, spkPad, spkOe, spkOe, spkO, spkO, h.spkEn, h.pwm_eq]

theorem afterTb (h : PwmAgrees b c) : PwmAgrees (tbBlock b) (tbBlock c) := by
  constructor <;> simp [h.ticks, h.sub, h.duty, h.spkEn]

theorem afterPin (h : PwmAgrees b c) (v : Bool) : PwmAgrees (pinBlock v b) (pinBlock v c) := by
  constructor <;> simp [h.ticks, h.sub, h.duty, h.spkEn]

theorem afterReset (b c : Block) : PwmAgrees (resetBlock b) (resetBlock c) := ⟨rfl, rfl, rfl, rfl⟩

theorem afterPoll (h : PwmAgrees b c) : PwmAgrees (poll b) (poll c) := by
  constructor <;> simp [h.ticks, h.sub, h.duty, h.spkEn]

theorem afterBtnReset (h : PwmAgrees b c) : PwmAgrees (btnReset b) (btnReset c) :=
  ⟨h.ticks, h.sub, h.duty, h.spkEn⟩

/-- A button or wake operation touches no field of the agreement; a PWM write gives its field the same value twice. -/
theorem afterEffect (h : PwmAgrees b c) (i : Instr) : PwmAgrees (effect i b) (effect i c) := by
  cases i with
  | rdTimeUs | rdTimeMs | rdTicks | rdSubtick | rdBtnStatus | rdSpk | rdWake => exact h
  | rdBtnPoll => exact h.afterPoll
  | wrBtnCtrl wdata =>
    simp only [effect]
    split
    · exact h.afterBtnReset
    · exact h
  | wrDuty _ => exact ⟨h.ticks, h.sub, rfl, h.spkEn⟩
  | wrSpk _ => exact ⟨h.ticks, h.sub, h.duty, rfl⟩
  | wrWake _ => exact ⟨h.ticks, h.sub, h.duty, h.spkEn⟩

end PwmAgrees

theorem stepRespects_pwmAgrees : StepRespects fun s s' => PwmAgrees s.block s'.block :=
  stepRespects_of_block (fun _ _ h => h.afterTb) (fun v _ _ h => h.afterPin v) (fun b c _ => .afterReset b c)
    (fun i _ _ h => h.afterEffect i)

theorem highUnits_of_pwmAgrees {es : List Event} {s s' t : State} (h : PwmAgrees s.block s'.block)
    (hrun : RunsTo es s t) : highUnits es s' = highUnits es s := by
  refine congrArg List.length (along_related stepRespects_pwmAgrees (fun e u u' hu => ?_) h hrun)
  simp only [hu.pwm_eq]

/-- Settles O57: every step respects the agreement on the input block and the agreement on the PWM, so runs do. -/
theorem subBlocksDoNotInterfere : Obligations.SubBlocksDoNotInterfere := by
  constructor
  · intro es s s' t hsame hrun
    have h := (sameInput_iff s s').1 hsame
    obtain ⟨t', hrun', hend⟩ := runsTo_related stepRespects_inputAgrees h hrun
    exact ⟨t', hrun', (sameInput_iff t t').2 hend, samples_of_inputAgrees h hrun, firings_of_inputAgrees h hrun⟩
  · intro es s s' t hsame hrun
    have h := (samePwm_iff s s').1 hsame
    obtain ⟨t', hrun', hend⟩ := runsTo_related stepRespects_pwmAgrees h hrun
    exact ⟨t', hrun', (samePwm_iff t t').2 hend, highUnits_of_pwmAgrees h hrun, hend.spkPad_eq.symm⟩

end Sys2Proof.Safety
end

section
/-! SUPPORT. The state of the block (10_state.md): the reset state and its outputs (R39, R42 to R44), the debouncer reset by
BTN_CTRL (R32), the step as its event's operation (R37). -/

namespace Sys2Proof.Safety

open Sys2Proof Sys2Proof.Machine

/-! ### The outputs (10_state.md R39) -/

theorem pwm_eq_false_iff (b : Block) : pwm b = false ↔ b.duty.toNat ≤ b.sub.toNat := by
  rw [← Bool.not_eq_true, pwm_iff, Nat.not_lt]

/-- No phase is below DUTY = 0 (42_pwm.md R171). -/
theorem pwm_of_duty_eq_zero {b : Block} (h : b.duty = 0) : pwm b = false := by
  rw [pwm_eq_false_iff, h]
  exact Nat.zero_le _

/-- Full DUTY leaves one low phase, the last of the period (42_pwm.md R171). -/
theorem pwm_eq_false_iff_of_duty_eq_255 {b : Block} (h : b.duty = 255) : pwm b = false ↔ b.sub = 255 := by
  rw [pwm_eq_false_iff, h]
  bv_omega

theorem spkPad_of_spkEn {b : Block} (h : b.spkEn = true) : spkPad b = some (pwm b) := if_pos h

theorem spkPad_of_not_spkEn {b : Block} (h : b.spkEn = false) : spkPad b = none := by
  simp [spkPad, spkOe, h]

/-- Settles O38: the outputs are the fields and the PWM compare, whose two extreme duties are said above. -/
theorem outputsFollowTheState : Obligations.OutputsFollowTheState := fun b =>
  ⟨pwm_iff b, rfl, rfl, rfl, rfl, pwm_of_duty_eq_zero, pwm_eq_false_iff_of_duty_eq_255, spkPad_of_spkEn,
    spkPad_of_not_spkEn⟩

/-! ### Reset and launch (10_state.md R42 to R44) -/

/-- A RESET step from any state (70_reset_and_hazards.md R230). -/
theorem step_of_reset {s : State} (h : nextEvent s = .reset) :
    step s = .next { takeEvent s with block := resetBlock s.block, resp := none } := by
  rw [step_of_nextEvent h, ← takeEvent_block s]
  rfl

/-- DUTY = 0 holds the three PWM outputs low, and the two flags are clear (70_reset_and_hazards.md R231). -/
theorem outputs_of_resetBlock (b : Block) :
    pwm (resetBlock b) = false ∧ ledO (resetBlock b) = false ∧ spkO (resetBlock b) = false ∧
      spkOe (resetBlock b) = false ∧ wakeIrq (resetBlock b) = false := by
  have hpwm : pwm (resetBlock b) = false := pwm_of_duty_eq_zero (resetBlock_duty b)
  exact ⟨hpwm, hpwm, hpwm, resetBlock_spkEn b, resetBlock_pend b⟩

/-- No operation faults or is refused, in any state (60_exceptions.md R201). -/
theorem exec_completes (i : Instr) (s : State) : ∃ t, exec i s = .next t := ⟨_, exec_eq i s⟩

/-- Settles O2: a RESET step ends in `resetBlock`, whose outputs are inactive, and every operation completes anywhere. -/
theorem launchStateIsAResetState : Obligations.LaunchStateIsAResetState := by
  refine ⟨rfl, fun s t hreset hstep => ?_⟩
  rw [step_of_reset hreset] at hstep
  obtain rfl := Host.Outcome.next.inj hstep
  exact ⟨outputs_of_resetBlock s.block, fun i => exec_completes i _⟩

/-- With no answer given and no event waiting, both halves of the invariant are empty. -/
theorem responseInvariant_of_fresh {s : State} (hresp : s.resp = none) (hpending : s.pending = []) :
    ResponseShowsRegister s ∧ PendingLegal s := by
  constructor
  · intro r hr
    rw [hresp] at hr
    cases hr
  · intro e he
    rw [hpending] at he
    cases he

/-- Settles O52: the launch state is fresh. -/
theorem responseInvariantHoldsAtReset : Obligations.ResponseInvariantHoldsAtReset :=
  responseInvariant_of_fresh rfl rfl

/-! ### BTN_CTRL (10_state.md R32) -/

/-- BTN_CTRL is write-only (10_state.md R25). -/
theorem decode_read_btnCtrl (wdata : Word) : decode 0x098#9 wdata = .error .direction := rfl

/-- WR_BTN_CTRL completes with the debouncer reset exactly where its RESET bit is set (41_button.md R142). -/
theorem exec_wrBtnCtrl_block (wdata : Word) (s : State) :
    ∃ t, exec (.wrBtnCtrl wdata) s = .next t ∧
      t.block = if btnResetBit wdata then btnReset s.block else s.block :=
  ⟨_, exec_eq _ s, rfl⟩

/-- Settles O18: the RESET bit is the parity of the data word. -/
theorem wrBtnCtrlResetsTheDebouncer : Obligations.WrBtnCtrlResetsTheDebouncer := by
  refine ⟨fun wdata => ⟨decode_wrBtnCtrl wdata, decode_read_btnCtrl wdata⟩, fun s wdata => ?_⟩
  obtain ⟨t, hexec, hblock⟩ := exec_wrBtnCtrl_block wdata s
  constructor
  · intro hodd
    have hbit : btnResetBit wdata = true := (btnResetBit_iff wdata).2 hodd
    exact ⟨t, hexec, hblock.trans (if_pos hbit)⟩
  · intro heven
    have hbit : ¬ btnResetBit wdata = true := by
      rw [btnResetBit_iff]
      omega
    exact ⟨t, hexec, hblock.trans (if_neg hbit)⟩

/-! ### The step and its operation (10_state.md R37) -/

theorem step_of_decoded {s : State} {d : Descriptor} {wdata : Word} {i : Instr} (hnext : nextEvent s = .bus d wdata)
    (hdec : decode d wdata = .ok i) : step s = exec i (takeEvent s) :=
  (step_of_nextEvent hnext).trans (access_ok hdec _)

theorem nextEvent_takeEvent_of_pending {s : State} {e : Event} {es : List Event} (h : s.pending = e :: es) :
    nextEvent s = e ∧ takeEvent s = { s with pending := es } := by
  simp only [nextEvent, takeEvent, h, and_self]

/-- A number that decodes to an operation is an access that decodes to it. -/
theorem transactionOf_of_decodeTableWord {nbits w : Nat} {i : Instr} (h : decodeTableWord nbits w = some i) :
    ∃ d wdata, transactionOf nbits w = some (d, wdata) ∧ decode d wdata = .ok i := by
  unfold decodeTableWord at h
  split at h
  · cases h
  · next d wdata htr =>
    split at h
    · next j hdec =>
      obtain rfl := Option.some.inj h
      exact ⟨d, wdata, htr, hdec⟩
    · cases h

/-- Placing a number that is an access delivers that access ahead of the others (log 3). -/
theorem withFetchWord_of_transactionOf {nbits w : Nat} {d : Descriptor} {wdata : Word}
    (h : transactionOf nbits w = some (d, wdata)) (s : State) :
    s.withFetchWord nbits w = { s with pending := .bus d wdata :: s.pending } := by
  simp only [State.withFetchWord, h]

/-- The placed access is the next event, and taking it gives back the state it was placed in. -/
theorem step_withFetchWord {nbits w : Nat} {i : Instr} (h : decodeTableWord nbits w = some i) (s : State) :
    step (s.withFetchWord nbits w) = exec i s := by
  obtain ⟨d, wdata, htr, hdec⟩ := transactionOf_of_decodeTableWord h
  rw [withFetchWord_of_transactionOf htr]
  exact step_of_decoded (nextEvent_cons s (.bus d wdata) s.pending) hdec

/-- Settles O46: the step performs the event it takes, and performing keeps the events still waiting. -/
theorem stepRunsTheDecodedOperation : Obligations.StepRunsTheDecodedOperation :=
  ⟨fun _ _ _ _ => step_of_decoded, fun _ _ _ => nextEvent_takeEvent_of_pending, fun _ _ => perform_keeps,
    fun s _ _ _ h => step_withFetchWord h s⟩

end Sys2Proof.Safety
end

section
/-! SUPPORT. The window's accesses (20_memory.md): the byte lanes of a data word (R50), what is decoded is what is encoded,
reads that change nothing (R55), writes that may be repeated (R56), events in delivery order (R59). -/

namespace Sys2Proof

/-! ### A decoded descriptor is its operation's (30_encoding.md R71, R72) -/

/-- Adjacent bit fields that cover a vector, put side by side again, are the vector. -/
theorem append_fields {m n : Nat} (x : BitVec (m + n)) : x.extractLsb' n m ++ x.extractLsb' 0 n = x :=
  (BitVec.extractLsb'_append_extractLsb'_eq_extractLsb' (Nat.zero_add n).symm).trans BitVec.extractLsb'_eq_self

theorem ofBool_fieldW (d : Descriptor) : BitVec.ofBool (fieldW d) = d.extractLsb' 8 1 := by
  ext k hk
  obtain rfl := Nat.lt_one_iff.1 hk
  simp [fieldW]

theorem descriptorOf_fields (d : Descriptor) : descriptorOf (fieldW d) (fieldSize d) (fieldOff d) = d := by
  have hhigh : BitVec.ofBool (fieldW d) ++ fieldSize d = d.extractLsb' 6 3 := by
    rw [ofBool_fieldW]
    exact BitVec.extractLsb'_append_extractLsb'_eq_extractLsb' rfl
  rw [descriptorOf, hhigh]
  exact append_fields (m := 3) (n := 6) d

/-- A register sits at four times its word index (10_state.md R25). -/
theorem offset_of_regAt {idx : BitVec 4} {r : Reg} (h : regAt idx = some r) : r.offset = idx ++ 0b00#2 := by
  unfold regAt at h
  split at h <;> cases h <;> rfl

theorem encodeDescriptor_of_readInstr {r : Reg} {i : Instr} (h : readInstr r = some i) :
    encodeDescriptor i = descriptorOf false 0b10#2 r.offset := by
  cases r <;> cases h <;> rfl

theorem encodeDescriptor_of_writeInstr {r : Reg} {wdata : Word} {i : Instr} (h : writeInstr r wdata = some i) :
    encodeDescriptor i = descriptorOf true 0b10#2 r.offset := by
  cases r <;> cases h <;> rfl

theorem encodeDescriptor_of_decodeDirection {write : Bool} {r : Reg} {wdata : Word} {i : Instr}
    (h : decodeDirection write r wdata = .ok i) : encodeDescriptor i = descriptorOf write 0b10#2 r.offset := by
  unfold decodeDirection at h
  split at h
  · next j hj =>
    obtain rfl := Except.ok.inj h
    cases write with
    | false => exact encodeDescriptor_of_readInstr hj
    | true => exact encodeDescriptor_of_writeInstr hj
  · cases h

/-- What passes every check of R71: word size, an aligned offset, a register there, and a direction it has. -/
theorem decode_eq_ok {d : Descriptor} {wdata : Word} {i : Instr} (h : decode d wdata = .ok i) :
    ∃ r, fieldSize d = 0b10#2 ∧ (fieldOff d).extractLsb' 0 2 = 0b00#2 ∧
      regAt ((fieldOff d).extractLsb' 2 4) = some r ∧ decodeDirection (fieldW d) r wdata = .ok i := by
  unfold decode at h
  split_ifs at h with hsize halign hmapped
  split at h
  · next r hreg => exact ⟨r, not_not.1 hsize, not_not.1 halign, hreg, h⟩
  · cases h

/-- The table of R72 gives back the descriptor an operation was decoded from. -/
theorem encodeDescriptor_of_decode {d : Descriptor} {wdata : Word} {i : Instr} (h : decode d wdata = .ok i) :
    encodeDescriptor i = d := by
  obtain ⟨r, hsize, halign, hreg, hdir⟩ := decode_eq_ok h
  rw [encodeDescriptor_of_decodeDirection hdir, offset_of_regAt hreg, ← halign, append_fields (m := 4) (n := 2),
    ← hsize, descriptorOf_fields]

end Sys2Proof

namespace Sys2Proof.Machine

/-! ### Byte lanes (20_memory.md R50) -/

theorem byteLane_toNat (v : Word) (k : Fin 4) : (byteLane v k).toNat = v.toNat / 2 ^ (8 * k.val) % 256 := by
  rw [byteLane, BitVec.extractLsb'_toNat, Nat.shiftRight_eq_div_pow]

/-- Lane by lane from the top, the appended lanes are the bits from the last one up. -/
theorem wordOfLanes_byteLane (v : Word) :
    wordOfLanes (byteLane v 0) (byteLane v 1) (byteLane v 2) (byteLane v 3) = v := by
  have htop : byteLane v 3 ++ byteLane v 2 = v.extractLsb' 16 16 :=
    BitVec.extractLsb'_append_extractLsb'_eq_extractLsb' rfl
  have hupper : v.extractLsb' 16 16 ++ byteLane v 1 = v.extractLsb' 8 24 :=
    BitVec.extractLsb'_append_extractLsb'_eq_extractLsb' rfl
  rw [wordOfLanes, htop, hupper]
  exact append_fields (m := 24) (n := 8) v

/-- Settles O55: a lane is a shift and a truncation, and adjacent lanes append to the bits they cover. -/
theorem byteLanesAreLittleEndian : Obligations.ByteLanesAreLittleEndian := fun v =>
  ⟨byteLane_toNat v, wordOfLanes_byteLane v⟩

end Sys2Proof.Machine

namespace Sys2Proof.Safety

open Sys2Proof Sys2Proof.Machine

/-! ### Operations and accesses that answer, in terms of `effect` and `answer` -/

theorem eq_of_exec_eq_next {i : Instr} {s t : State} (h : exec i s = .next t) :
    t = { s with block := effect i s.block, resp := answer i s.block } :=
  (Host.Outcome.next.inj ((exec_eq i s).symm.trans h)).symm

theorem perform_of_decoded {d : Descriptor} {wdata : Word} {i : Instr} (h : decode d wdata = .ok i) (s : State) :
    perform (.bus d wdata) s = .next { s with block := effect i s.block, resp := answer i s.block } :=
  (access_ok h s).trans (exec_eq i s)

/-! ### Reads (20_memory.md R55) -/

/-- A read, the poll apart, leaves the block as it was. -/
theorem effect_of_read {i : Instr} (hread : (encode i).1.toNat / 256 = 0) (hpoll : i ≠ .rdBtnPoll) (b : Block) :
    effect i b = b := by
  cases i with
  | rdTimeUs | rdTimeMs | rdTicks | rdSubtick | rdBtnStatus | rdSpk | rdWake => rfl
  | rdBtnPoll => exact absurd rfl hpoll
  | wrBtnCtrl _ | wrDuty _ | wrSpk _ | wrWake _ => simp [encode, encodeDescriptor] at hread

/-- Settles O48: a step of an access is its decoded operation, and the block an effectless read answers from is kept. -/
theorem onlyThePollReadHasASideEffect : Obligations.OnlyThePollReadHasASideEffect := by
  constructor
  · intro s t d wdata hnext hread hpoll hstep
    rw [step_of_nextEvent hnext] at hstep
    obtain ⟨i, hdec, hexec⟩ := access_eq_next hstep
    obtain rfl := encodeDescriptor_of_decode hdec
    have hi : i ≠ .rdBtnPoll := fun h => hpoll (congrArg encodeDescriptor h)
    rw [eq_of_exec_eq_next hexec, ← takeEvent_block s]
    exact effect_of_read hread hi _
  · intro i s t u hread hpoll ht hu
    have hblock : effect i s.block = s.block := effect_of_read hread hpoll s.block
    rw [eq_of_exec_eq_next hu, eq_of_exec_eq_next ht]
    exact congrArg (answer i) hblock

/-! ### Writes (20_memory.md R56) -/

/-- A second debouncer reset at the same time finds the debouncer as it leaves it (41_button.md R142). -/
theorem btnReset_btnReset (b : Block) : btnReset (btnReset b) = btnReset b := rfl

/-- Each of the four writes puts its registers to values that do not depend on them, or clears a flag. -/
theorem effect_write_idem {i : Instr} {wdata : Word}
    (h : i = .wrDuty wdata ∨ i = .wrSpk wdata ∨ i = .wrWake wdata ∨ i = .wrBtnCtrl wdata) (b : Block) :
    effect i (effect i b) = effect i b := by
  obtain rfl | rfl | rfl | rfl := h
  · rfl
  · rfl
  · simp only [effect, Bool.and_assoc, Bool.and_self]
  · simp only [effect]
    split
    · exact btnReset_btnReset b
    · rfl

/-- A run whose first event is performed goes on from the state it gives. -/
theorem runsTo_cons_of_perform {e : Event} {s u : State} (h : perform e s = .next u) (es : List Event) (t : State) :
    RunsTo (e :: es) s t ↔ RunsTo es u t := by
  rw [runsTo_cons, h]
  simp

/-- The debouncer reset written at 0x18 sets LAST to the time of the write. -/
theorem perform_btnCtrl_reset (s : State) :
    perform (.bus 0x198#9 1) s = .next { s with block := btnReset s.block, resp := none } :=
  perform_of_decoded (decode_wrBtnCtrl 1) s

/-- Settles O49: the effects are idempotent; a TB moves the time the second debouncer reset writes to LAST by one. -/
theorem registerWritesAreIdempotent : Obligations.RegisterWritesAreIdempotent := by
  constructor
  · intro i wdata s t u hwrite ht hu
    rw [eq_of_exec_eq_next hu, eq_of_exec_eq_next ht]
    exact effect_write_idem hwrite s.block
  · intro s t hrun
    rw [runsTo_cons_of_perform (perform_btnCtrl_reset s), runsTo_cons_of_perform rfl,
      runsTo_cons_of_perform (perform_btnCtrl_reset _), runsTo_nil] at hrun
    subst hrun
    calc us (tbBlock (btnReset s.block)) = us (btnReset s.block) + 1 := us_tbBlock _
      _ = us s.block + 1 := by rw [us_congr (btnReset_ticks s.block) (btnReset_sub s.block)]

/-! ### Delivery order (20_memory.md R59) -/

theorem runsTo_append (es es' : List Event) (s t : State) :
    RunsTo (es ++ es') s t ↔ ∃ u, RunsTo es s u ∧ RunsTo es' u t := by
  refine ⟨fun h => ?_, fun ⟨u, hu, ht⟩ => runsTo_trans hu ht⟩
  induction es generalizing s with
  | nil => exact ⟨s, (runsTo_nil s s).2 rfl, h⟩
  | cons e es ih =>
    obtain ⟨v, hv, hrest⟩ := (runsTo_cons _ _ _ _).1 h
    obtain ⟨u, hu, ht⟩ := ih v hrest
    exact ⟨u, (runsTo_cons _ _ _ _).2 ⟨v, hv, hu⟩, ht⟩

/-- The events after a run wait as they were, and none is drawn from the free environment (log 1, log 2). -/
theorem runsTo_keeps {es : List Event} {s t : State} (h : RunsTo es s t) :
    t.pending = s.pending ∧ t.envIndex = s.envIndex := by
  induction es generalizing s with
  | nil =>
    obtain rfl := (runsTo_nil s t).1 h
    exact ⟨rfl, rfl⟩
  | cons e es ih =>
    obtain ⟨v, hv, hrest⟩ := (runsTo_cons _ _ _ _).1 h
    obtain ⟨hpending, hindex⟩ := perform_keeps hv
    obtain ⟨hpending', hindex'⟩ := ih hrest
    exact ⟨hpending'.trans hpending, hindex'.trans hindex⟩

/-- Settles O47: a run splits at any place of its list of events, and each step keeps the model's own fields. -/
theorem eventsArePerformedInDeliveryOrder : Obligations.EventsArePerformedInDeliveryOrder :=
  ⟨runsTo_append, fun _ _ _ => runsTo_keeps⟩

end Sys2Proof.Safety
end

section
/-! SUPPORT. The encoding (30_encoding.md): decode and encode agree (R70, R72, R73), the descriptors each error cause takes
(R71, R75), the accesses of the table and of the pseudo-instructions (R72, R78). -/

namespace Sys2Proof

/-! ### Decode and encode (30_encoding.md R72, R73) -/

/-- The twelve rows of the per-instruction family together. -/
theorem roundTrip (i : Instr) : Laws.RoundTrip.Statement i := by
  cases i with
  | rdTimeUs => exact Laws.RoundTrip.rdTimeUs
  | rdTimeMs => exact Laws.RoundTrip.rdTimeMs
  | rdTicks => exact Laws.RoundTrip.rdTicks
  | rdSubtick => exact Laws.RoundTrip.rdSubtick
  | rdBtnPoll => exact Laws.RoundTrip.rdBtnPoll
  | rdBtnStatus => exact Laws.RoundTrip.rdBtnStatus
  | wrBtnCtrl wdata => exact Laws.RoundTrip.wrBtnCtrl wdata
  | wrDuty wdata => exact Laws.RoundTrip.wrDuty wdata
  | rdSpk => exact Laws.RoundTrip.rdSpk
  | wrSpk wdata => exact Laws.RoundTrip.wrSpk wdata
  | rdWake => exact Laws.RoundTrip.rdWake
  | wrWake wdata => exact Laws.RoundTrip.wrWake wdata

/-- Bit 8 of a 9-bit number is its quotient by 256. -/
theorem fieldW_iff (d : Descriptor) : fieldW d = true ↔ d.toNat / 256 = 1 := by
  have hd := d.isLt
  rw [fieldW, BitVec.getLsbD, Nat.testBit_eq_decide_div_mod_eq, decide_eq_true_iff]
  omega

theorem fieldW_eq_false_iff (d : Descriptor) : fieldW d = false ↔ d.toNat / 256 = 0 := by
  have hd := d.isLt
  rw [← Bool.not_eq_true, fieldW_iff]
  omega

theorem encodeData_of_readInstr {r : Reg} {i : Instr} (h : readInstr r = some i) : encodeData i = 0 := by
  cases r <;> cases h <;> rfl

theorem encodeData_of_writeInstr {r : Reg} {wdata : Word} {i : Instr} (h : writeInstr r wdata = some i) :
    encodeData i = wdata := by
  cases r <;> cases h <;> rfl

/-- The last check of R71 passes exactly where the register has the direction's operation. -/
theorem decodeDirection_eq_ok {write : Bool} {r : Reg} {wdata : Word} {i : Instr}
    (h : decodeDirection write r wdata = .ok i) :
    (if write then writeInstr r wdata else readInstr r) = some i := by
  unfold decodeDirection at h
  split at h
  · next j hj => rw [hj, Except.ok.inj h]
  · cases h

/-- A write's operand is the whole data word, and a read takes nothing of it (30_encoding.md R70, R73). -/
theorem encodeData_of_decode {d : Descriptor} {wdata : Word} {i : Instr} (h : decode d wdata = .ok i) :
    encodeData i = if fieldW d then wdata else 0 := by
  obtain ⟨r, -, -, -, hdir⟩ := decode_eq_ok h
  have hop := decodeDirection_eq_ok hdir
  cases hw : fieldW d with
  | true => exact encodeData_of_writeInstr (by simpa [hw] using hop)
  | false => exact encodeData_of_readInstr (by simpa [hw] using hop)

/-- Settles O43: one way the twelve round trips, the other way the checks of R71 undone field by field. -/
theorem decodeAndEncodeAgree : Obligations.DecodeAndEncodeAgree := by
  refine ⟨fun i hwf => (roundTrip i hwf).2, fun d wdata i hdec => ⟨encodeDescriptor_of_decode hdec, ?write, ?read⟩⟩
  case write =>
    intro hw
    exact (encodeData_of_decode hdec).trans (if_pos ((fieldW_iff d).2 hw))
  case read =>
    intro hw
    have hfield : fieldW d = false := (fieldW_eq_false_iff d).2 hw
    rw [encode, encodeData_of_decode hdec, hfield]
    rfl

end Sys2Proof

namespace Sys2Proof.Safety

open Sys2Proof Sys2Proof.Machine

/-! ### What a read answers is the content of its register (30_encoding.md R74, 10_state.md R25) -/

/-- A word with a byte appended below it, as a number. -/
theorem toNat_append_byte {n : Nat} (x : BitVec n) (y : Byte) : (x ++ y).toNat = x.toNat * 256 + y.toNat := by
  rw [BitVec.toNat_append, ← Nat.shiftLeft_add_eq_or_of_lt y.isLt, Nat.shiftLeft_eq]

theorem us_eq_append (b : Block) : us b = b.ticks.extractLsb' 0 24 ++ b.sub := by
  apply BitVec.eq_of_toNat_eq
  have hsub := b.sub.isLt
  rw [us_toNat, fullTime_eq, toNat_append_byte, BitVec.extractLsb'_toNat, Nat.shiftRight_zero]
  omega

theorem ms_eq_append (b : Block) : ms b = BitVec.ofNat 32 ((b.ticks ++ b.sub).toNat / 1000) := by
  rw [toNat_append_byte]
  rfl

theorem subtickWord_eq_append (sub : Byte) : subtickWord sub = 0#24 ++ sub :=
  BitVec.setWidth_eq_append (by decide)

theorem buttonWord_eq_setWidth (pin : Bool) (st : ButtonStatus) :
    buttonWord pin st = (BitVec.ofBool pin ++ st.code).setWidth 32 := by
  cases pin <;> cases st <;> rfl

theorem spkWord_eq_ite (spkEn : Bool) : spkWord spkEn = if spkEn then 1 else 0 := by
  cases spkEn <;> rfl

theorem wakeWord_eq_add (pend arm : Bool) :
    wakeWord pend arm = (if pend then 2 else 0) + (if arm then 1 else 0) := by
  cases pend <;> cases arm <;> rfl

/-- A poll answers the status after it, and every other read leaves its register as it answers it. -/
theorem registerWord_of_answer {i : Instr} {b : Block} {r : Response} (h : answer i b = some r) :
    registerWord (effect i b) r.reg = some r.rdata := by
  cases i with
  | wrBtnCtrl _ | wrDuty _ | wrSpk _ | wrWake _ => cases h
  | rdTimeUs => cases h; exact congrArg some (us_eq_append b).symm
  | rdTimeMs => cases h; exact congrArg some (ms_eq_append b).symm
  | rdTicks => cases h; rfl
  | rdSubtick => cases h; exact congrArg some (subtickWord_eq_append b.sub).symm
  | rdBtnPoll =>
    cases h
    simp only [registerWord, effect, poll_pin, buttonWord_eq_setWidth]
  | rdBtnStatus => cases h; exact congrArg some (buttonWord_eq_setWidth b.pin b.status).symm
  | rdSpk => cases h; exact congrArg some (spkWord_eq_ite b.spkEn).symm
  | rdWake => cases h; exact congrArg some (wakeWord_eq_add b.pend b.arm).symm

/-- Whatever the state before, an event leaves either no answer or the content of the register it read. -/
theorem perform_shows_register {e : Event} {s t : State} (h : perform e s = .next t) : ResponseShowsRegister t := by
  obtain ⟨-, rfl⟩ | ⟨v, -, rfl⟩ | ⟨-, rfl⟩ | ⟨d, wdata, i, -, -, rfl⟩ := perform_cases h
  case inr.inr.inr => exact fun r hr => registerWord_of_answer hr
  all_goals exact fun r hr => nomatch hr

theorem pendingLegal_takeEvent {s : State} (h : PendingLegal s) : PendingLegal (takeEvent s) := by
  obtain ⟨b, resp, _ | ⟨e, es⟩, n⟩ := s
  case nil => exact h
  case cons => exact fun e' he' => h e' (List.mem_cons_of_mem e he')

theorem pendingLegal_of_pending_eq {s t : State} (hpending : t.pending = s.pending) (h : PendingLegal s) :
    PendingLegal t := by
  intro e he
  exact h e (hpending ▸ he)

/-- Settles O51: the event performed decides the answer held, and the events waiting after it waited before it. -/
theorem stepKeepsTheResponseInvariant : Obligations.StepKeepsTheResponseInvariant := by
  rintro s t ⟨-, hlegal⟩ hstep
  have hpending : t.pending = (takeEvent s).pending := (perform_keeps hstep).1
  exact ⟨perform_shows_register hstep, pendingLegal_of_pending_eq hpending (pendingLegal_takeEvent hlegal)⟩

/-! ### The model's own fields after an operation (log 1, log 2, log 4) -/

/-- W of an operation's descriptor is set exactly for the operations that answer no data (30_encoding.md R70). -/
theorem answer_eq_none_iff (i : Instr) (b : Block) : answer i b = none ↔ (encode i).1.toNat / 256 = 1 := by
  cases i with
  | wrBtnCtrl _ | wrDuty _ | wrSpk _ | wrWake _ => simp [answer, encode, encodeDescriptor]
  | rdTimeUs | rdTimeMs | rdTicks | rdSubtick | rdBtnPoll | rdBtnStatus | rdSpk | rdWake =>
    exact iff_of_false (Option.some_ne_none _) (by decide)

/-- Settles O50: an operation sets the block and the answer, and no other field. -/
theorem operationsAnswerDataExactlyForReads : Obligations.OperationsAnswerDataExactlyForReads := by
  intro i s t hexec
  obtain rfl := eq_of_exec_eq_next hexec
  exact ⟨rfl, rfl, answer_eq_none_iff i s.block⟩

end Sys2Proof.Safety

namespace Sys2Proof

/-! ### The procedure of R71 on the number a descriptor is -/

/-- The error cause of a decode result, none where it is an operation. -/
def causeOf : Except BusCause Instr → Option BusCause
  | .error cause => some cause
  | .ok _ => none

theorem causeOf_eq_some_iff (r : Except BusCause Instr) (cause : BusCause) :
    causeOf r = some cause ↔ r = .error cause := by
  cases r <;> simp [causeOf]

theorem causeOf_eq_none_iff (r : Except BusCause Instr) : causeOf r = none ↔ ∃ i, r = .ok i := by
  cases r <;> simp [causeOf]

/-- The first cause, in the order of 60_exceptions.md R203, that a descriptor of this number has: the checks of R71 in
arithmetic. `causeOf_decode` ties it to the decoder. -/
def firstCause (n : Nat) : Option BusCause :=
  if n / 64 % 4 ≠ 2 then some .size
  else if n % 64 % 4 ≠ 0 then some .misaligned
  else if 0x28 ≤ n % 64 then some .unmapped
  else if (n / 256 = 1 ∧ n % 64 < 0x18) ∨ (n / 256 = 0 ∧ (n % 64 = 0x18 ∨ n % 64 = 0x1C)) then some .direction
  else none

theorem fieldOff_toNat (d : Descriptor) : (fieldOff d).toNat = d.toNat % 64 := by
  rw [fieldOff, BitVec.extractLsb'_toNat, Nat.shiftRight_zero]

theorem fieldSize_eq_word_iff (d : Descriptor) : fieldSize d = 0b10#2 ↔ d.toNat / 64 % 4 = 2 := by
  rw [← BitVec.toNat_inj, fieldSize, BitVec.extractLsb'_toNat, Nat.shiftRight_eq_div_pow]
  rfl

theorem aligned_iff (d : Descriptor) : (fieldOff d).extractLsb' 0 2 = 0b00#2 ↔ d.toNat % 64 % 4 = 0 := by
  rw [← BitVec.toNat_inj, BitVec.extractLsb'_toNat, fieldOff_toNat, Nat.shiftRight_zero]
  rfl

/-- The ten registers fill the word indices below 10 (10_state.md R25). -/
theorem exists_regAt {idx : BitVec 4} (h : idx.toNat < 10) : ∃ r, regAt idx = some r := by
  rw [← Option.isSome_iff_exists]
  revert idx
  decide

/-- An aligned offset below 0x28 is a register's (10_state.md R25, R36). -/
theorem exists_reg_of_offset {off : BitVec 6} (halign : off.extractLsb' 0 2 = 0b00#2) (hmapped : off.toNat < 0x28) :
    ∃ r, regAt (off.extractLsb' 2 4) = some r ∧ r.offset = off := by
  have hidx : (off.extractLsb' 2 4).toNat < 10 := by
    rw [BitVec.extractLsb'_toNat, Nat.shiftRight_eq_div_pow]
    omega
  obtain ⟨r, hr⟩ := exists_regAt hidx
  exact ⟨r, hr, by rw [offset_of_regAt hr, ← halign, append_fields (m := 4) (n := 2)]⟩

/-- The registers below 0x18 are read-only, and those at 0x18 and 0x1C write-only (10_state.md R25). -/
theorem causeOf_decodeDirection (write : Bool) (r : Reg) (wdata : Word) :
    causeOf (decodeDirection write r wdata) =
      if (write = true ∧ r.offset.toNat < 0x18) ∨ (write = false ∧ (r.offset.toNat = 0x18 ∨ r.offset.toNat = 0x1C))
      then some .direction else none := by
  cases write with
  | true => cases r <;> rfl
  | false => cases r <;> rfl

/-- Past its first three checks the decoder asks the register at the offset for the direction (30_encoding.md R71). -/
theorem decode_of_mapped {d : Descriptor} (hsize : d.toNat / 64 % 4 = 2) (halign : d.toNat % 64 % 4 = 0)
    (hmapped : d.toNat % 64 < 0x28) (wdata : Word) :
    ∃ r, decode d wdata = decodeDirection (fieldW d) r wdata ∧ r.offset = fieldOff d := by
  have hsize' := (fieldSize_eq_word_iff d).2 hsize
  have halign' := (aligned_iff d).2 halign
  have hmapped' : (fieldOff d).toNat < 0x28 := fieldOff_toNat d ▸ hmapped
  obtain ⟨r, hreg, hoff⟩ := exists_reg_of_offset halign' hmapped'
  exact ⟨r, by simp [decode, hsize', halign', Nat.not_le.2 hmapped', hreg], hoff⟩

/-- The decoder reports the first cause, whatever the data word (30_encoding.md R71). -/
theorem causeOf_decode (d : Descriptor) (wdata : Word) : causeOf (decode d wdata) = firstCause d.toNat := by
  by_cases hsize : d.toNat / 64 % 4 = 2
  case neg => simp only [decode, firstCause, fieldSize_eq_word_iff, ne_eq, hsize, not_false_eq_true, if_true, causeOf]
  by_cases halign : d.toNat % 64 % 4 = 0
  case neg =>
    simp only [decode, firstCause, fieldSize_eq_word_iff, aligned_iff, ne_eq, hsize, halign, not_true_eq_false,
      not_false_eq_true, if_false, if_true, causeOf]
  by_cases hmapped : 0x28 ≤ d.toNat % 64
  case pos =>
    simp only [decode, firstCause, fieldSize_eq_word_iff, aligned_iff, fieldOff_toNat, ne_eq, hsize, halign, hmapped,
      not_true_eq_false, if_false, if_true, causeOf]
  obtain ⟨r, hdec, hoff⟩ := decode_of_mapped hsize halign (Nat.not_le.1 hmapped) wdata
  rw [hdec, causeOf_decodeDirection, hoff, fieldOff_toNat]
  simp only [firstCause, fieldW_iff, fieldW_eq_false_iff, ne_eq, hsize, halign, hmapped, not_true_eq_false, if_false]

theorem decode_eq_error_iff (d : Descriptor) (wdata : Word) (cause : BusCause) :
    decode d wdata = .error cause ↔ firstCause d.toNat = some cause := by
  rw [← causeOf_eq_some_iff, causeOf_decode]

/-! ### The groups of R75, one by one -/

theorem firstCause_eq_size_iff (n : Nat) : firstCause n = some .size ↔ n / 64 % 4 ≠ 2 := by
  unfold firstCause
  split_ifs <;> simp_all

theorem firstCause_eq_misaligned_iff (n : Nat) :
    firstCause n = some .misaligned ↔ n / 64 % 4 = 2 ∧ n % 64 % 4 ≠ 0 := by
  unfold firstCause
  split_ifs <;> simp_all

theorem firstCause_eq_unmapped_iff (n : Nat) :
    firstCause n = some .unmapped ↔ n / 64 % 4 = 2 ∧ n % 64 % 4 = 0 ∧ 0x28 ≤ n % 64 := by
  unfold firstCause
  split_ifs <;> simp_all

theorem firstCause_eq_direction_iff (n : Nat) :
    firstCause n = some .direction ↔ n / 64 % 4 = 2 ∧ n % 64 % 4 = 0 ∧ n % 64 < 0x28 ∧
      ((n / 256 = 1 ∧ n % 64 < 0x18) ∨ (n / 256 = 0 ∧ (n % 64 = 0x18 ∨ n % 64 = 0x1C))) := by
  unfold firstCause
  split_ifs <;> simp_all

/-! ### The legal descriptors are the twelve of R72 -/

theorem encode_wellFormed (i : Instr) : Descriptor.wellFormed (encode i).1 = true := by
  have hop : i.wellFormed = true := by cases i <;> rfl
  exact (roundTrip i hop).1

theorem sizeLegal_iff (d : Descriptor) : sizeLegal d = true ↔ d.toNat / 64 % 4 = 2 :=
  beq_iff_eq.trans (fieldSize_eq_word_iff d)

theorem alignLegal_iff (d : Descriptor) : alignLegal d = true ↔ d.toNat % 64 % 4 = 0 := by
  rw [alignLegal, beq_iff_eq, ← BitVec.toNat_inj, BitVec.extractLsb'_toNat, Nat.shiftRight_zero,
    Nat.mod_mod_of_dvd _ (by decide)]
  rfl

theorem mappedLegal_iff (d : Descriptor) : mappedLegal d = true ↔ d.toNat % 64 < 0x28 := by
  rw [← fieldOff_toNat]
  exact decide_eq_true_iff

/-- A register listed for the direction has the operation (10_state.md R25). -/
theorem decodeDirection_of_listed {write : Bool} {r : Reg}
    (h : (if write then writableOffsets.contains r.offset else readableOffsets.contains r.offset) = true)
    (wdata : Word) : ∃ i, decodeDirection write r wdata = .ok i := by
  rw [← causeOf_eq_none_iff, causeOf_decodeDirection]
  revert h
  cases write with
  | true => cases r <;> decide
  | false => cases r <;> decide

/-- A descriptor in none of the groups of R75 is decoded, and only an operation's descriptor is. -/
theorem exists_decode_ok_iff (d : Descriptor) (wdata : Word) :
    (∃ i, decode d wdata = .ok i) ↔ Descriptor.wellFormed d = true := by
  constructor
  · rintro ⟨i, hdec⟩
    exact encodeDescriptor_of_decode hdec ▸ encode_wellFormed i
  · intro hwf
    simp only [Descriptor.wellFormed, Bool.and_eq_true, sizeLegal_iff, alignLegal_iff, mappedLegal_iff] at hwf
    obtain ⟨⟨⟨hsize, halign⟩, hmapped⟩, hdir⟩ := hwf
    obtain ⟨r, hdec, hoff⟩ := decode_of_mapped hsize halign hmapped wdata
    rw [hdec]
    apply decodeDirection_of_listed
    rw [hoff]
    exact hdir

/-- Settles O40: the decoder reports `firstCause`, whose groups are those of R75. -/
theorem decodeReportsTheFirstCause : Obligations.DecodeReportsTheFirstCause := by
  intro d wdata
  simp only [decode_eq_error_iff]
  exact ⟨firstCause_eq_size_iff _, firstCause_eq_misaligned_iff _, firstCause_eq_unmapped_iff _,
    firstCause_eq_direction_iff _, exists_decode_ok_iff d wdata⟩

/-! ### How many descriptors each group has (30_encoding.md R75) -/

/-- A range of `a` blocks of `b` numbers is counted block by block. -/
theorem countP_range_mul (p : Nat → Bool) (a b : Nat) :
    (List.range (a * b)).countP p = ((List.range a).map fun k => (List.range b).countP fun j => p (k * b + j)).sum := by
  induction a with
  | zero => simp
  | succ a ih =>
    rw [Nat.succ_mul, List.range_add, List.countP_append, List.countP_map, ih, List.range_succ, List.map_append,
      List.sum_append, List.map_singleton, List.sum_singleton]
    rfl

/-- The numbers below 512 with this first cause, over the 64 offsets for each of the eight W and SIZE. -/
def groupSize (cause : Option BusCause) : Nat :=
  ((List.range 8).map fun k => (List.range 64).countP fun off => decide (firstCause (k * 64 + off) = cause)).sum

/-- Decode results are counted by the cause of the descriptor's number. -/
theorem length_filter_decode {p : Except BusCause Instr → Bool} {cause : Option BusCause}
    (hp : ∀ r, p r = decide (causeOf r = cause)) :
    ((List.range 512).filter fun n => p (decode (BitVec.ofNat 9 n) 0)).length = groupSize cause := by
  have hcause : ∀ n ∈ List.range 512, p (decode (BitVec.ofNat 9 n) 0) = decide (firstCause n = cause) := by
    intro n hn
    rw [hp, causeOf_decode, BitVec.toNat_ofNat, Nat.mod_eq_of_lt (List.mem_range.1 hn)]
  rw [List.filter_congr hcause, ← List.countP_eq_length_filter]
  exact countP_range_mul _ 8 64

/-- Settles O41: each group is one value of `causeOf`, counted in arithmetic on the 512 numbers. -/
theorem descriptorGroupsHaveTheirCounts : Obligations.DescriptorGroupsHaveTheirCounts := by
  unfold Obligations.DescriptorGroupsHaveTheirCounts
  intro count
  have hcount : ∀ p cause, (∀ r, p r = decide (causeOf r = cause)) → count p = groupSize cause :=
    fun _ _ => length_filter_decode
  -- From here on `count` is known by `hcount` alone, so that no tactic evaluates it.
  clear_value count
  refine ⟨(hcount _ (some .size) ?_).trans (by decide), (hcount _ (some .misaligned) ?_).trans (by decide),
    (hcount _ (some .unmapped) ?_).trans (by decide), (hcount _ (some .direction) ?_).trans (by decide),
    (hcount _ none ?_).trans (by decide)⟩
  all_goals rintro ((_ | _ | _ | _) | _) <;> rfl

/-! ### The table and the pseudo-instructions (30_encoding.md R72, R78) -/

/-- A descriptor written as a 16-bit number is the access of that descriptor with data word zero (log 3). -/
theorem transactionOf_toNat (d : Descriptor) : transactionOf 16 d.toNat = some (d, 0) := by
  have hd := d.isLt
  have hmod : d.toNat % 2 ^ 16 = d.toNat := by omega
  have hgap : d.toNat / 2 ^ 9 % 2 ^ 7 = 0 := by omega
  have hdata : d.toNat / 2 ^ 16 = 0 := by omega
  simp only [transactionOf, hmod, hgap, hdata, if_true, BitVec.ofNat_toNat, BitVec.setWidth_eq]
  rfl

theorem decodeTableWord_toNat {d : Descriptor} {i : Instr} (h : decode d 0 = .ok i) :
    decodeTableWord 16 d.toNat = some i := by
  simp only [decodeTableWord, transactionOf_toNat, h]

/-- Settles O42: each row is its descriptor's number, decoded with data word zero. -/
theorem tableDescriptorsDecodeAsListed : Obligations.TableDescriptorsDecodeAsListed :=
  ⟨decodeTableWord_toNat (decode_rdTimeUs 0), decodeTableWord_toNat (decode_rdTimeMs 0),
    decodeTableWord_toNat (decode_rdTicks 0), decodeTableWord_toNat (decode_rdSubtick 0),
    decodeTableWord_toNat (decode_rdBtnPoll 0), decodeTableWord_toNat (decode_rdBtnStatus 0),
    decodeTableWord_toNat (decode_wrBtnCtrl 0), decodeTableWord_toNat (decode_wrDuty 0),
    decodeTableWord_toNat (decode_rdSpk 0), decodeTableWord_toNat (decode_wrSpk 0),
    decodeTableWord_toNat (decode_rdWake 0), decodeTableWord_toNat (decode_wrWake 0)⟩

/-- Settles O59: the expansions and the encoder are tables, set side by side; the level is the data word whole. -/
theorem pseudoInstructionsExpandToOneAccess : Obligations.PseudoInstructionsExpandToOneAccess :=
  ⟨rfl, rfl, rfl, rfl, rfl, fun _ => rfl, rfl, rfl, rfl, rfl, rfl⟩

end Sys2Proof
end

section
/-! SUPPORT. The timebase (40_timebase.md): the full time T and the values read from it (R101 to R103), what a TB event and a
run make of T (R100, R104 to R106), the four reads of the counters (R110 to R113). -/

namespace Sys2Proof.Safety

open Sys2Proof Sys2Proof.Machine

/-! ### T and the two counters (40_timebase.md R101) -/

theorem fullTime_eq_append (b : Block) : fullTime b = (b.ticks ++ b.sub).toNat := (toNat_append_byte b.ticks b.sub).symm

theorem fullTime_lt (b : Block) : fullTime b < 2 ^ 40 := by
  rw [fullTime_eq_append]
  exact (b.ticks ++ b.sub).isLt

theorem fullTime_mod (b : Block) : fullTime b % 2 ^ 40 = fullTime b := Nat.mod_eq_of_lt (fullTime_lt b)

theorem ticks_toNat (b : Block) : b.ticks.toNat = fullTime b / 256 := by
  have hsub := b.sub.isLt
  rw [fullTime_eq]
  omega

theorem sub_toNat (b : Block) : b.sub.toNat = fullTime b % 256 := by
  have hsub := b.sub.isLt
  rw [fullTime_eq]
  omega

theorem fullTime_of_counters {b : Block} {x : Word} {y : Byte} (hticks : b.ticks = x) (hsub : b.sub = y) :
    fullTime b = x.toNat * 256 + y.toNat := by
  rw [fullTime_eq, hticks, hsub]

theorem exists_fullTime_eq {n : Nat} (h : n < 2 ^ 40) : ∃ b : Block, fullTime b = n := by
  refine ⟨{ State.reset.block with ticks := BitVec.ofNat 32 (n / 256), sub := BitVec.ofNat 8 n }, ?_⟩
  rw [fullTime_of_counters rfl rfl, BitVec.toNat_ofNat, BitVec.toNat_ofNat]
  omega

/-! ### The microsecond and the millisecond time (40_timebase.md R102, R103) -/

theorem us_of_fullTime {b : Block} {n : Nat} (h : fullTime b = n) : us b = BitVec.ofNat 32 n := by
  rw [us, h]

theorem ms_of_fullTime {b : Block} {n : Nat} (h : fullTime b = n) : ms b = BitVec.ofNat 32 (n / 1000) := by
  rw [ms, h, Config.unitsPerMs]

/-- T is below 2^40, so that T div 1000 fits in 32 bits: the reduction of R103 never takes effect. -/
theorem ms_toNat (b : Block) : (ms b).toNat = fullTime b / 1000 := by
  have hT := fullTime_lt b
  rw [ms_of_fullTime rfl, BitVec.toNat_ofNat]
  omega

/-- Settles O6: µs is the low 32 of the 40 bits. -/
theorem microsecondTimeIsLowTicksThenSub : Obligations.MicrosecondTimeIsLowTicksThenSub :=
  fun b => ⟨us_toNat b, us_eq_append b⟩

/-- Settles O7: the bound is that of T, and every T below 2^40 is some block's. -/
theorem millisecondTimeIsTheFlooredFullTime : Obligations.MillisecondTimeIsTheFlooredFullTime := by
  constructor
  · intro b
    have hT := fullTime_lt b
    rw [ms_toNat]
    omega
  · intro k hk
    have hT : k * 1000 < 2 ^ 40 := by omega
    obtain ⟨b, hb⟩ := exists_fullTime_eq hT
    exact ⟨b, by rw [ms_toNat, hb, Nat.mul_div_cancel k (by decide)]⟩

/-! ### TB (40_timebase.md R100, R104) -/

theorem step_of_tb {s : State} (h : nextEvent s = .tb) :
    step s = .next { takeEvent s with block := tbBlock s.block, resp := none } := by
  rw [step_of_nextEvent h, ← takeEvent_block s]
  rfl

theorem tbBlock_of_sub_eq_255 {b : Block} (h : b.sub = 255) : tbBlock b = { b with sub := 0, ticks := b.ticks + 1 } :=
  if_pos h

theorem tbBlock_of_sub_ne_255 {b : Block} (h : b.sub ≠ 255) : tbBlock b = { b with sub := b.sub + 1 } := if_neg h

/-- Settles O3: the two branches of the TB step, reached in every state whose next event is TB. -/
theorem tbEventCountsAndCarries : Obligations.TbEventCountsAndCarries := fun _ h =>
  ⟨_, step_of_tb h, tbBlock_of_sub_eq_255, tbBlock_of_sub_ne_255⟩

/-- The carry makes the pair of counters one 40-bit counter (R101). -/
theorem fullTime_tbBlock (b : Block) : fullTime (tbBlock b) = (fullTime b + 1) % 2 ^ 40 := by
  rw [fullTime_eq, fullTime_eq]
  by_cases h : b.sub = 255
  · rw [tbBlock_of_sub_eq_255 h]
    bv_omega
  · rw [tbBlock_of_sub_ne_255 h]
    bv_omega

theorem fullTime_tbs (n : Nat) (b : Block) : fullTime (tbBlock^[n] b) = (fullTime b + n) % 2 ^ 40 := by
  induction n with
  | zero => rw [Nat.add_zero, fullTime_mod, Function.iterate_zero_apply]
  | succ n ih => rw [Function.iterate_succ_apply', fullTime_tbBlock, ih, Nat.mod_add_mod, Nat.add_assoc]

theorem counters_after_256_tbs (b : Block) : (tbBlock^[256] b).ticks = b.ticks + 1 ∧ (tbBlock^[256] b).sub = b.sub := by
  have hT := fullTime_tbs 256 b
  have hlt := fullTime_lt b
  constructor <;> apply BitVec.eq_of_toNat_eq
  · rw [BitVec.toNat_add, ticks_toNat, ticks_toNat, hT]
    simp only [BitVec.ofNat_eq_ofNat, BitVec.toNat_ofNat]
    omega
  · rw [sub_toNat, sub_toNat, hT]
    omega

theorem ms_after_1000_tbs {b : Block} (h : fullTime b + 1000 < 2 ^ 40) : ms (tbBlock^[1000] b) = ms b + 1 := by
  apply BitVec.eq_of_toNat_eq
  rw [BitVec.toNat_add, ms_toNat, ms_toNat, fullTime_tbs]
  simp only [BitVec.ofNat_eq_ofNat, BitVec.toNat_ofNat]
  omega

/-- The TB step that wraps T, and TICKS and the ms time with it (R104). -/
theorem fullTime_tbBlock_of_max {b : Block} (h : fullTime b = 2 ^ 40 - 1) : fullTime (tbBlock b) = 0 := by
  rw [fullTime_tbBlock, h]
  rfl

theorem ticks_of_fullTime_eq_zero {b : Block} (h : fullTime b = 0) : b.ticks = 0 := by
  apply BitVec.eq_of_toNat_eq
  rw [ticks_toNat, h]
  rfl

/-- Settles O8: every value follows T, which each TB event advances by one. -/
theorem overflowWrapsSilently : Obligations.OverflowWrapsSilently := by
  refine ⟨counters_after_256_tbs, us_tbBlock, fun _ => ms_after_1000_tbs, fun b hmax => ?wrap40, fun b hmax => ?wrap32⟩
  case wrap40 =>
    have hnext := fullTime_tbBlock_of_max hmax
    exact ⟨ms_of_fullTime hmax, ms_of_fullTime hnext, ticks_of_fullTime_eq_zero hnext⟩
  case wrap32 =>
    have hnext : fullTime (tbBlock b) = 2 ^ 32 := by rw [fullTime_tbBlock, hmax]; rfl
    exact ⟨us_of_fullTime hmax, (us_of_fullTime hnext).trans rfl, ms_of_fullTime hmax, ms_of_fullTime hnext⟩

/-! ### What else reaches the counters (40_timebase.md R105, R106) -/

/-- No operation writes TICKS or SUB (30_encoding.md R72). -/
theorem effect_counters (i : Instr) (b : Block) : (effect i b).ticks = b.ticks ∧ (effect i b).sub = b.sub := by
  cases i with
  | rdTimeUs | rdTimeMs | rdTicks | rdSubtick | rdBtnStatus | rdSpk | rdWake => exact ⟨rfl, rfl⟩
  | rdBtnPoll => exact ⟨poll_ticks b, poll_sub b⟩
  | wrBtnCtrl wdata =>
    simp only [effect]
    split
    · exact ⟨btnReset_ticks b, btnReset_sub b⟩
    · exact ⟨rfl, rfl⟩
  | wrDuty _ | wrSpk _ | wrWake _ => exact ⟨rfl, rfl⟩

theorem perform_keeps_counters {e : Event} {s t : State} (htb : e ≠ .tb) (hreset : e ≠ .reset)
    (h : perform e s = .next t) : t.block.ticks = s.block.ticks ∧ t.block.sub = s.block.sub := by
  obtain ⟨rfl, -⟩ | ⟨v, -, rfl⟩ | ⟨rfl, -⟩ | ⟨d, wdata, i, -, -, rfl⟩ := perform_cases h
  · exact absurd rfl htb
  · exact ⟨pinBlock_ticks v s.block, pinBlock_sub v s.block⟩
  · exact absurd rfl hreset
  · exact effect_counters i s.block

theorem step_keeps_counters {s t : State} (h : step s = .next t) (htb : nextEvent s ≠ .tb)
    (hreset : nextEvent s ≠ .reset) : t.block.ticks = s.block.ticks ∧ t.block.sub = s.block.sub :=
  takeEvent_block s ▸ perform_keeps_counters htb hreset h

/-- Settles O9: neither PIN(v) nor an operation writes a counter, and a TB event is performed in every state. -/
theorem onlyTbAndResetChangeTheTimebase : Obligations.OnlyTbAndResetChangeTheTimebase :=
  ⟨fun _ _ => step_keeps_counters, fun s h => ⟨_, step_of_tb h, fullTime_tbBlock s.block⟩⟩

theorem fullTime_of_perform {e : Event} {s t : State} (hreset : e ≠ .reset) (h : perform e s = .next t) :
    fullTime t.block = (fullTime s.block + tbCount [e]) % 2 ^ 40 := by
  by_cases htb : e = .tb
  · subst htb
    obtain rfl := Host.Outcome.next.inj h
    exact fullTime_tbBlock s.block
  · obtain ⟨hticks, hsub⟩ := perform_keeps_counters htb hreset h
    have hcount : tbCount [e] = 0 := by simp [tbCount, htb]
    rw [fullTime_congr hticks hsub, hcount, Nat.add_zero, fullTime_mod]

theorem tbCount_cons (e : Event) (es : List Event) : tbCount (e :: es) = tbCount [e] + tbCount es :=
  List.countP_append (l₁ := [e])

/-- Over a run without RESET, T advances by the number of TB events, whatever happens between them (R101, R105). -/
theorem fullTime_of_runsTo {es : List Event} {s t : State} (hreset : ∀ e ∈ es, e ≠ .reset) (h : RunsTo es s t) :
    fullTime t.block = (fullTime s.block + tbCount es) % 2 ^ 40 := by
  induction es generalizing s with
  | nil =>
    obtain rfl := (runsTo_nil s t).1 h
    rw [tbCount, List.countP_nil, Nat.add_zero, fullTime_mod]
  | cons e es ih =>
    obtain ⟨u, hu, hrest⟩ := (runsTo_cons _ _ _ _).1 h
    obtain ⟨he, hes⟩ := List.forall_mem_cons.1 hreset
    rw [ih hes hrest, fullTime_of_perform he hu, Nat.mod_add_mod, tbCount_cons e es, Nat.add_assoc]

theorem fullTime_resetBlock (b : Block) : fullTime (resetBlock b) = 0 :=
  fullTime_of_counters (resetBlock_ticks b) (resetBlock_sub b)

/-- Settles O4: a run from the block after RESET starts at T = 0. -/
theorem fullTimeCountsTbEvents : Obligations.FullTimeCountsTbEvents := by
  refine ⟨fun b => ⟨fullTime_eq b, fullTime_eq_append b, fullTime_lt b⟩, fun s t htb hstep => ?tb,
    fun s t es hreset hrun => ?run⟩
  case tb =>
    obtain rfl := Host.Outcome.next.inj ((step_of_tb htb).symm.trans hstep)
    exact fullTime_tbBlock s.block
  case run =>
    rw [runsTo_cons_of_perform rfl] at hrun
    rw [fullTime_of_runsTo hreset hrun, fullTime_resetBlock, Nat.zero_add]

/-- The wrap of T at 2^40 does not show, since 2^32 divides it. -/
theorem us_difference_of_runsTo {es : List Event} {s t : State} (hreset : ∀ e ∈ es, e ≠ .reset) (h : RunsTo es s t) :
    ((us t.block).toNat + 2 ^ 32 - (us s.block).toNat) % 2 ^ 32 = tbCount es % 2 ^ 32 := by
  rw [us_toNat, us_toNat, fullTime_of_runsTo hreset h]
  omega

/-- Settles O5: the difference is the count modulo 2^32, which is the count itself below 2^32. -/
theorem modularElapsedTimeIsExact : Obligations.ModularElapsedTimeIsExact := by
  intro s t es hreset hrun
  have hdiff := us_difference_of_runsTo hreset hrun
  exact ⟨fun hsmall => hdiff.trans (Nat.mod_eq_of_lt hsmall), fun _ => hdiff⟩

/-! ### The reads of the counters (40_timebase.md R110 to R113) -/

/-- TIME_US is read-only (10_state.md R25). -/
theorem decode_write_timeUs (wdata : Word) : decode 0x180#9 wdata = .error .direction := rfl

theorem us_of_counters {b : Block} {x : Word} {y : Byte} (hticks : b.ticks = x) (hsub : b.sub = y) :
    us b = BitVec.ofNat 32 (x.toNat * 256 + y.toNat) := us_of_fullTime (fullTime_of_counters hticks hsub)

/-- Settles O10: the word read is µs, which the next TB event advances by one, past its wrap too. -/
theorem rdTimeUsReturnsTheMicrosecondTime : Obligations.RdTimeUsReturnsTheMicrosecondTime := by
  refine ⟨fun wdata => ⟨decode_rdTimeUs wdata, decode_write_timeUs wdata⟩, fun w size wdata hsize => ?size,
    fun s => ⟨_, exec_eq .rdTimeUs s, rfl, ?word, fun hticks hsub => ?wrap, us_of_counters⟩⟩
  case size => exact decode_of_fieldSize_ne (by rwa [fieldSize_descriptorOf]) wdata
  case word => simp only [answer, us_eq_append]
  case wrap =>
    have hus : us s.block = 0xFFFFFFFF := (us_of_counters hticks hsub).trans rfl
    exact ⟨hus, by rw [us_tbBlock, hus]; rfl⟩

/-- Settles O11: the word read is ms, and each corner case a value of T. -/
theorem rdTimeMsReturnsTheMillisecondTime : Obligations.RdTimeMsReturnsTheMillisecondTime := by
  refine ⟨decode_rdTimeMs, fun s => ⟨_, exec_eq .rdTimeMs s, rfl, ms s.block, rfl, ?number⟩,
    fun b => ⟨ms_of_fullTime, ms_of_fullTime, ms_of_fullTime, ms_of_fullTime, fun hmax => ?wrap,
      fun hticks hsub => ?sample⟩⟩
  case number => rw [ms_of_fullTime (fullTime_eq s.block), BitVec.toNat_ofNat]
  case wrap => exact ⟨ms_of_fullTime hmax, ms_of_fullTime (fullTime_tbBlock_of_max hmax)⟩
  case sample => exact ms_of_fullTime (fullTime_of_counters hticks hsub)

/-- Settles O12: a TB event that does not find SUB = 255 keeps TICKS, and no event but TB and RESET changes it. -/
theorem rdTicksReturnsTheTickCounter : Obligations.RdTicksReturnsTheTickCounter := by
  refine ⟨decode_rdTicks, fun s => ⟨_, exec_eq .rdTicks s, rfl, rfl⟩, fun s t hstep hchanged => ?_⟩
  by_cases hreset : nextEvent s = .reset
  case pos => exact .inl hreset
  by_cases htb : nextEvent s = .tb
  case neg => exact absurd (step_keeps_counters hstep htb hreset).1 hchanged
  obtain rfl := Host.Outcome.next.inj ((step_of_tb htb).symm.trans hstep)
  by_cases hsub : s.block.sub = 255
  · exact .inr ⟨htb, hsub, by rw [tbBlock_of_sub_eq_255 hsub]⟩
  · exact absurd (by rw [tbBlock_of_sub_ne_255 hsub]) hchanged

theorem subtickWord_toNat (sub : Byte) : (subtickWord sub).toNat = sub.toNat :=
  BitVec.toNat_setWidth_of_le (by decide)

/-- Settles O13: zero extension keeps the number, and the PWM compares that number with DUTY. -/
theorem rdSubtickReturnsSubZeroExtended : Obligations.RdSubtickReturnsSubZeroExtended := by
  refine ⟨decode_rdSubtick, fun s => ⟨_, exec_eq .rdSubtick s, rfl, _, rfl, subtickWord_toNat s.block.sub, ?_⟩⟩
  rw [subtickWord_toNat]
  exact pwm_iff s.block

end Sys2Proof.Safety
end

section
/-! SUPPORT. The debouncer (41_button.md R132 to R142): the poll, what an event makes of STATUS, LAST and PIN, the samples of
a run and the entries of STATUS they make. -/

namespace Sys2Proof.Safety

open Sys2Proof Sys2Proof.Machine

/-! ### The poll and the peek (41_button.md R132 to R135, R140, R141) -/

/-- Settles O14: the table row by row, Released the same for both levels. -/
theorem nextStatusFollowsTheTable : Obligations.NextStatusFollowsTheTable :=
  ⟨rfl, rfl, rfl, rfl, rfl, rfl, fun _ => ⟨rfl, nofun⟩⟩

/-- The acceptance in the arithmetic of 00_scope.md R9. -/
theorem accepted_iff_modular (b : Block) :
    accepted b = true ↔ 3000 ≤ ((us b).toNat + 2 ^ 32 - b.last.toNat) % 2 ^ 32 := by
  rw [accepted_iff, elapsed_toNat]

theorem poll_of_accepted {b : Block} (h : accepted b = true) :
    poll b = { b with status := nextStatus b.status b.pin, last := us b } := if_pos h

theorem poll_of_not_accepted {b : Block} (h : ¬ accepted b = true) : poll b = b := if_neg h

/-- BTN_POLL is read-only (10_state.md R25). -/
theorem decode_write_btnPoll (wdata : Word) : decode 0x190#9 wdata = .error .direction := rfl

/-- Settles O15: the two branches of the poll, and the word is PIN and the status the poll leaves. -/
theorem rdBtnPollPollsAfterTheGuard : Obligations.RdBtnPollPollsAfterTheGuard := by
  refine ⟨fun wdata => ⟨decode_rdBtnPoll wdata, decode_write_btnPoll wdata⟩,
    fun s => ⟨fun hlate => ?late, fun hearly => ?early⟩⟩
  case late =>
    have hpoll := poll_of_accepted ((accepted_iff_modular s.block).2 hlate)
    refine ⟨_, exec_eq .rdBtnPoll s, hpoll, ?_⟩
    simp only [answer, hpoll, buttonWord]
  case early =>
    have hacc : ¬ accepted s.block = true := by
      rw [accepted_iff_modular]
      omega
    have hpoll := poll_of_not_accepted hacc
    refine ⟨_, exec_eq .rdBtnPoll s, hpoll, ?_⟩
    simp only [answer, hpoll, buttonWord]

/-- Settles O16: the step of a poll is `poll`, which a poll too early leaves without effect. -/
theorem rejectedPollChangesNothing : Obligations.RejectedPollChangesNothing := by
  intro s wdata hnext hearly
  have hacc : ¬ accepted s.block = true := by
    rw [accepted_iff]
    omega
  refine ⟨_, (step_of_decoded hnext (decode_rdBtnPoll wdata)).trans (exec_eq _ _), ?_⟩
  rw [takeEvent_block]
  exact poll_of_not_accepted hacc

/-- The number a Button Status is read as (10_state.md R30). -/
theorem buttonWord_toNat (pin : Bool) (st : ButtonStatus) :
    (buttonWord pin st).toNat = (if pin then 4 else 0) + st.code.toNat := by
  cases pin <;> cases st <;> rfl

/-- Settles O17: the peek answers the button word of the block it leaves as it was. -/
theorem rdBtnStatusPeeksWithoutPolling : Obligations.RdBtnStatusPeeksWithoutPolling := by
  refine ⟨decode_rdBtnStatus, fun s => ⟨_, exec_eq .rdBtnStatus s, rfl, rfl, fun hidle hhigh => ?word,
    ⟨rfl, rfl, rfl, rfl⟩, _, rfl, ?number⟩⟩
  case word =>
    simp only [answer, hidle, hhigh]
    rfl
  case number =>
    rw [buttonWord_toNat]
    cases s.block.status <;> rfl

/-! ### What an event makes of PIN, STATUS and LAST (41_button.md R130, R134, R142) -/

theorem opOf_of_decoded {d : Descriptor} {wdata : Word} {i : Instr} (h : decode d wdata = .ok i) :
    opOf (.bus d wdata) = some i := by
  simp only [opOf, h]

theorem isPoll_iff_of_decoded {d : Descriptor} {wdata : Word} {i : Instr} (h : decode d wdata = .ok i) :
    isPoll (.bus d wdata) = true ↔ i = .rdBtnPoll := by
  rw [isPoll, opOf_of_decoded h, beq_iff_eq, Option.some_inj]

theorem ne_reset_of_not_restarts {e : Event} (h : restartsDebouncer e = false) : e ≠ .reset := by
  rintro rfl
  cases h

/-- No operation writes PIN (30_encoding.md R72). -/
theorem effect_pin (i : Instr) (b : Block) : (effect i b).pin = b.pin := by
  cases i with
  | rdTimeUs | rdTimeMs | rdTicks | rdSubtick | rdBtnStatus | rdSpk | rdWake => rfl
  | rdBtnPoll => exact poll_pin b
  | wrBtnCtrl wdata =>
    simp only [effect]
    split
    · exact btnReset_pin b
    · rfl
  | wrDuty _ | wrSpk _ | wrWake _ => rfl

/-- An operation that neither polls nor resets the debouncer leaves it. -/
theorem effect_keeps_debouncer {d : Descriptor} {wdata : Word} {i : Instr} (hdec : decode d wdata = .ok i)
    (hpoll : i ≠ .rdBtnPoll) (hrestart : restartsDebouncer (.bus d wdata) = false) (b : Block) :
    (effect i b).status = b.status ∧ (effect i b).last = b.last := by
  cases i with
  | rdTimeUs | rdTimeMs | rdTicks | rdSubtick | rdBtnStatus | rdSpk | rdWake => exact ⟨rfl, rfl⟩
  | rdBtnPoll => exact absurd rfl hpoll
  | wrBtnCtrl w =>
    have hbit : btnResetBit w = false := by
      simpa [restartsDebouncer, opOf_of_decoded hdec] using hrestart
    simp [effect, hbit]
  | wrDuty _ | wrSpk _ | wrWake _ => exact ⟨rfl, rfl⟩

theorem pin_of_perform {e : Event} {s t : State} (h : perform e s = .next t) :
    t.block.pin = levelAfter s.block.pin [e] := by
  obtain ⟨rfl, rfl⟩ | ⟨v, rfl, rfl⟩ | ⟨rfl, rfl⟩ | ⟨d, wdata, i, rfl, -, rfl⟩ := perform_cases h
  · exact tbBlock_pin s.block
  · exact pinBlock_pin v s.block
  · exact resetBlock_pin s.block
  · exact effect_pin i s.block

theorem levelAfter_of_not_isPin {e : Event} (h : isPin e = false) (v : Bool) : levelAfter v [e] = v := by
  cases e with
  | pin w => cases h
  | tb | bus _ _ | reset => rfl

theorem levelAfter_cons (v : Bool) (e : Event) (es : List Event) :
    levelAfter v (e :: es) = levelAfter (levelAfter v [e]) es := by
  cases e <;> rfl

/-- The sample an event takes, if it is an accepted poll (`samples_cons`). -/
def sampleOf (e : Event) (s : State) : List (ButtonStatus × Bool) :=
  if isPoll e && accepted s.block then [(s.block.status, s.block.pin)] else []

theorem samples_cons {e : Event} {es : List Event} {s u : State} (h : perform e s = .next u) :
    samples (e :: es) s = sampleOf e s ++ samples es u := along_cons _ h

theorem sampleOf_of_not_isPoll {e : Event} (h : isPoll e = false) (s : State) : sampleOf e s = [] := by
  simp [sampleOf, h]

theorem mem_sampleOf {e : Event} {s : State} {a : ButtonStatus × Bool} (h : a ∈ sampleOf e s) :
    a = (s.block.status, s.block.pin) := by
  unfold sampleOf at h
  split at h
  · exact List.mem_singleton.1 h
  · cases h

/-- Where no event resets the debouncer: an accepted poll samples, moves STATUS by the table and restarts the guard; every
other event samples nothing and leaves STATUS and LAST. -/
theorem perform_debouncer {e : Event} {s t : State} (hrestart : restartsDebouncer e = false)
    (h : perform e s = .next t) :
    (sampleOf e s = [(s.block.status, s.block.pin)] ∧ accepted s.block = true ∧
      t.block.status = nextStatus s.block.status s.block.pin ∧ t.block.last = us t.block) ∨
    (sampleOf e s = [] ∧ t.block.status = s.block.status ∧ t.block.last = s.block.last) := by
  obtain ⟨rfl, rfl⟩ | ⟨v, rfl, rfl⟩ | ⟨rfl, -⟩ | ⟨d, wdata, i, rfl, hdec, rfl⟩ := perform_cases h
  · exact .inr ⟨rfl, tbBlock_status s.block, tbBlock_last s.block⟩
  · exact .inr ⟨rfl, pinBlock_status v s.block, pinBlock_last v s.block⟩
  · cases hrestart
  · by_cases hpoll : i = .rdBtnPoll
    · subst hpoll
      have hisPoll := (isPoll_iff_of_decoded hdec).2 rfl
      by_cases hacc : accepted s.block = true
      · have hus : us (poll s.block) = us s.block := us_congr (poll_ticks s.block) (poll_sub s.block)
        exact .inl (by simp [sampleOf, effect, hisPoll, hacc, hus])
      · exact .inr (by simp [sampleOf, effect, hacc])
    · have hisPoll : isPoll (.bus d wdata) = false := by
        rwa [← Bool.not_eq_true, isPoll_iff_of_decoded hdec]
      exact .inr ⟨sampleOf_of_not_isPoll hisPoll s, effect_keeps_debouncer hdec hpoll hrestart s.block⟩

/-! ### The guard over a run (41_button.md R133, R139) -/

theorem us_of_perform {e : Event} {s t : State} (hreset : e ≠ .reset) (h : perform e s = .next t) :
    us t.block = us s.block + BitVec.ofNat 32 (tbCount [e]) := by
  apply BitVec.eq_of_toNat_eq
  rw [BitVec.toNat_add, BitVec.toNat_ofNat, us_toNat, us_toNat, fullTime_of_perform hreset h]
  omega

theorem elapsed_of_perform {e : Event} {s t : State} (hreset : e ≠ .reset) (h : perform e s = .next t)
    (hlast : t.block.last = s.block.last) :
    elapsed t.block = elapsed s.block + BitVec.ofNat 32 (tbCount [e]) := by
  rw [elapsed, elapsed, hlast, us_of_perform hreset h]
  ring

/-- Over a run that resets nothing and samples nothing STATUS stays and the elapsed time counts the TB events. -/
theorem debouncer_of_unsampled_run {es : List Event} {s t : State} (hrestart : ∀ e ∈ es, restartsDebouncer e = false)
    (hrun : RunsTo es s t) (hsamples : samples es s = []) :
    t.block.status = s.block.status ∧ t.block.last = s.block.last ∧
      elapsed t.block = elapsed s.block + BitVec.ofNat 32 (tbCount es) := by
  induction es generalizing s with
  | nil =>
    obtain rfl := (runsTo_nil s t).1 hrun
    exact ⟨rfl, rfl, (BitVec.add_zero _).symm⟩
  | cons e es ih =>
    obtain ⟨u, hu, hrest⟩ := (runsTo_cons _ _ _ _).1 hrun
    obtain ⟨he, hes⟩ := List.forall_mem_cons.1 hrestart
    rw [samples_cons hu, List.append_eq_nil_iff] at hsamples
    obtain ⟨hnone, hlater⟩ := hsamples
    obtain ⟨hone, -⟩ | ⟨-, hstatus, hlast⟩ := perform_debouncer he hu
    · rw [hone] at hnone
      cases hnone
    · obtain ⟨hstatus', hlast', helapsed⟩ := ih hes hrest hlater
      refine ⟨hstatus'.trans hstatus, hlast'.trans hlast, ?_⟩
      rw [helapsed, elapsed_of_perform (ne_reset_of_not_restarts he) hu hlast, tbCount_cons e es, BitVec.ofNat_add,
        BitVec.add_assoc]

theorem elapsed_of_last_eq_us {b : Block} (h : b.last = us b) : elapsed b = 0 := by
  rw [elapsed, h]
  exact BitVec.sub_self _

/-- A run too short to end the guard takes no sample, whatever the pin and the polls do. -/
theorem samples_of_guarded_run {es : List Event} {s t : State} (hrestart : ∀ e ∈ es, restartsDebouncer e = false)
    (hrun : RunsTo es s t) (hshort : (elapsed s.block).toNat + tbCount es < 3000) : samples es s = [] := by
  induction es generalizing s with
  | nil => rfl
  | cons e es ih =>
    obtain ⟨u, hu, hrest⟩ := (runsTo_cons _ _ _ _).1 hrun
    obtain ⟨he, hes⟩ := List.forall_mem_cons.1 hrestart
    have hcount := tbCount_cons e es
    obtain ⟨-, hacc, -⟩ | ⟨hnone, -, hlast⟩ := perform_debouncer he hu
    · rw [accepted_iff] at hacc
      omega
    · have helapsed := elapsed_of_perform (ne_reset_of_not_restarts he) hu hlast
      have hshort' : (elapsed u.block).toNat + tbCount es < 3000 := by
        rw [helapsed, BitVec.toNat_add, BitVec.toNat_ofNat]
        omega
      rw [samples_cons hu, hnone, ih hes hrest hshort']
      rfl

theorem samples_of_run_after_sample {es : List Event} {s t : State} (hrestart : ∀ e ∈ es, restartsDebouncer e = false)
    (hrun : RunsTo es s t) (hlast : s.block.last = us s.block) (hshort : tbCount es < 3000) : samples es s = [] := by
  have hzero : (elapsed s.block).toNat = 0 := by rw [elapsed_of_last_eq_us hlast]; rfl
  exact samples_of_guarded_run hrestart hrun (by omega)

/-- Two accepted samples are at least GUARD_US units apart. -/
theorem length_samples_le_one {es : List Event} {s t : State} (hrestart : ∀ e ∈ es, restartsDebouncer e = false)
    (hrun : RunsTo es s t) (hshort : tbCount es < 3000) : (samples es s).length ≤ 1 := by
  induction es generalizing s with
  | nil => exact Nat.zero_le 1
  | cons e es ih =>
    obtain ⟨u, hu, hrest⟩ := (runsTo_cons _ _ _ _).1 hrun
    obtain ⟨he, hes⟩ := List.forall_mem_cons.1 hrestart
    have hshort' : tbCount es < 3000 := by
      rw [tbCount_cons e es] at hshort
      omega
    rw [samples_cons hu]
    obtain ⟨hone, -, -, hlast⟩ | ⟨hnone, -⟩ := perform_debouncer he hu
    · rw [hone, samples_of_run_after_sample hes hrest hlast hshort']
      exact Nat.le_refl 1
    · rw [hnone]
      exact ih hes hrest hshort'

/-- Some poll within the next GUARD_US units is accepted: at once, or when the rest of the guard has passed. -/
theorem exists_accepted_within_guard (b : Block) : ∃ n ≤ 3000, accepted (tbBlock^[n] b) = true := by
  by_cases hacc : accepted b = true
  · exact ⟨0, by decide, hacc⟩
  · rw [accepted_iff] at hacc
    refine ⟨3000 - (elapsed b).toNat, Nat.sub_le _ _, ?_⟩
    rw [accepted_iff, elapsed_tbs, BitVec.toNat_add, BitVec.toNat_ofNat]
    omega

/-- Settles O22: the elapsed time starts at zero and counts the TB events modulo its 32 bits. -/
theorem elapsedTimeAliasesAfterALongGap : Obligations.ElapsedTimeAliasesAfterALongGap := by
  refine ⟨fun s t es hlast hrestart hrun hsamples => ?_, exists_accepted_within_guard⟩
  obtain ⟨-, -, helapsed⟩ := debouncer_of_unsampled_run hrestart hrun hsamples
  rw [elapsed_of_last_eq_us hlast] at helapsed
  have hnat : (elapsed t.block).toNat = tbCount es % 2 ^ 32 := by
    rw [helapsed, BitVec.toNat_add, BitVec.toNat_ofNat]
    simp
  exact ⟨hnat, hnat ▸ accepted_iff t.block⟩

/-- Settles O25: the write leaves LAST at its own time, from where the run is too short for a sample. -/
theorem debouncerResetRestartsTheGuard : Obligations.DebouncerResetRestartsTheGuard := by
  intro s t wdata es hodd hrestart hshort hrun
  have hdec := decode_wrBtnCtrl wdata
  have hwrite := perform_of_decoded hdec s
  have hbit : btnResetBit wdata = true := (btnResetBit_iff wdata).2 hodd
  have hblock : effect (.wrBtnCtrl wdata) s.block = btnReset s.block := if_pos hbit
  have hisPoll : isPoll (.bus 0x198#9 wdata) = false := by
    rw [← Bool.not_eq_true, isPoll_iff_of_decoded hdec]
    nofun
  rw [hblock] at hwrite
  rw [runsTo_cons_of_perform hwrite] at hrun
  have hus : us (btnReset s.block) = us s.block := us_congr (btnReset_ticks s.block) (btnReset_sub s.block)
  have hsamples := samples_of_run_after_sample hrestart hrun hus.symm hshort
  obtain ⟨hstatus, hlast, -⟩ := debouncer_of_unsampled_run hrestart hrun hsamples
  refine ⟨hstatus, hlast, ?_⟩
  rw [samples_cons hwrite, sampleOf_of_not_isPoll hisPoll, hsamples]
  rfl

/-! ### The samples of a run as a walk of the table (41_button.md R132, R136) -/

/-- The samples, taken one after the other, lead STATUS from the first value to the last (`samples_walk`). -/
def Walk : ButtonStatus → List (ButtonStatus × Bool) → ButtonStatus → Prop
  | st, [], st' => st = st'
  | st, a :: l, st' => a.1 = st ∧ Walk (nextStatus a.1 a.2) l st'

theorem samples_walk {es : List Event} {s t : State} (hrestart : ∀ e ∈ es, restartsDebouncer e = false)
    (hrun : RunsTo es s t) : Walk s.block.status (samples es s) t.block.status := by
  induction es generalizing s with
  | nil =>
    obtain rfl := (runsTo_nil s t).1 hrun
    exact rfl
  | cons e es ih =>
    obtain ⟨u, hu, hrest⟩ := (runsTo_cons _ _ _ _).1 hrun
    obtain ⟨he, hes⟩ := List.forall_mem_cons.1 hrestart
    have hlater := ih hes hrest
    rw [samples_cons hu]
    obtain ⟨hone, -, hstatus, -⟩ | ⟨hnone, hstatus, -⟩ := perform_debouncer he hu
    · rw [hone]
      exact ⟨rfl, hstatus ▸ hlater⟩
    · rw [hnone]
      exact hstatus ▸ hlater

/-- The sample changes STATUS to `st`. -/
def enters (st : ButtonStatus) (a : ButtonStatus × Bool) : Bool := a.1 != st && nextStatus a.1 a.2 == st

theorem entriesInto_eq_countP (st : ButtonStatus) (es : List Event) (s : State) :
    entriesInto st es s = (samples es s).countP (enters st) :=
  List.countP_eq_length_filter.symm

/-- 1 where STATUS takes the button for down. -/
def downCount : ButtonStatus → Nat
  | .idle => 0
  | .pressed => 1
  | .held => 1
  | .released => 0

/-- A sample that takes the button for down enters Pressed, one that takes it for up enters Released. -/
theorem enters_balance (a : ButtonStatus × Bool) :
    (if enters .pressed a then 1 else 0) + downCount a.1 =
      (if enters .released a then 1 else 0) + downCount (nextStatus a.1 a.2) := by
  obtain ⟨st, pin⟩ := a
  cases st <;> cases pin <;> rfl

theorem Walk.balance {l : List (ButtonStatus × Bool)} {st st' : ButtonStatus} (h : Walk st l st') :
    l.countP (enters .pressed) + downCount st = l.countP (enters .released) + downCount st' := by
  induction l generalizing st with
  | nil => exact congrArg (0 + downCount ·) h
  | cons a l ih =>
    obtain ⟨rfl, hrest⟩ := h
    have hlater := ih hrest
    have hfirst := enters_balance a
    rw [List.countP_cons, List.countP_cons]
    omega

/-- Settles O19: a run from Pressed to Pressed enters Released as often as Pressed. -/
theorem oneReleaseBetweenTwoPresses : Obligations.OneReleaseBetweenTwoPresses := by
  intro s t es hrestart hrun hs ht hpressed
  have hbalance := (samples_walk hrestart hrun).balance
  rw [hs, ht, ← entriesInto_eq_countP, ← entriesInto_eq_countP] at hbalance
  omega

/-! ### A press with bounces (41_button.md R137) -/

/-- A low sample never enters Released (R132). -/
theorem not_enters_released_of_low {a : ButtonStatus × Bool} (h : a.2 = false) : ¬ enters .released a = true := by
  obtain ⟨st, pin⟩ := a
  subst h
  cases st <;> decide

/-- A high sample never enters Pressed (R132). -/
theorem not_enters_pressed_of_high {a : ButtonStatus × Bool} (h : a.2 = true) : ¬ enters .pressed a = true := by
  obtain ⟨st, pin⟩ := a
  subst h
  cases st <;> decide

/-- Pressed is entered from Idle alone (R132). -/
theorem not_enters_pressed_of_down {a : ButtonStatus × Bool} (h : downCount a.1 = 1) : ¬ enters .pressed a = true := by
  obtain ⟨st, pin⟩ := a
  cases st with
  | idle | released => cases h
  | pressed | held => cases pin <;> decide

theorem downCount_nextStatus_high (st : ButtonStatus) : downCount (nextStatus st true) = 0 := by
  cases st <;> rfl

theorem downCount_le_one (st : ButtonStatus) : downCount st ≤ 1 := by
  cases st <;> decide

theorem downCount_eq_zero_iff (st : ButtonStatus) : downCount st = 0 ↔ st = .released ∨ st = .idle := by
  cases st <;> decide

/-- The first low sample enters Pressed, and the low ones after it keep the button down (R132). -/
theorem Walk.press_of_first_low {l : List (ButtonStatus × Bool)} {st' : ButtonStatus}
    (h : Walk .idle ((.idle, false) :: l) st') (hlow : ∀ a ∈ l, a.2 = false) :
    ((.idle, false) :: l).countP (enters .pressed) = 1 ∧ ((.idle, false) :: l).countP (enters .released) = 0 ∧
      downCount st' = 1 := by
  have hreleased : ((.idle, false) :: l).countP (enters .released) = 0 :=
    List.countP_eq_zero.2 (List.forall_mem_cons.2 ⟨by decide, fun a ha => not_enters_released_of_low (hlow a ha)⟩)
  have hpressed : 1 ≤ ((.idle, false) :: l).countP (enters .pressed) :=
    List.countP_pos_iff.2 ⟨_, List.mem_cons_self, rfl⟩
  have hbalance := h.balance
  have hle := downCount_le_one st'
  have hidle : downCount .idle = 0 := rfl
  omega

theorem eq_cons_of_find_low {l : List (ButtonStatus × Bool)} {b : ButtonStatus × Bool} (hlow : ∀ a ∈ l, a.2 = false)
    (hfind : l.find? (fun a => !a.2) = some b) : ∃ l', l = b :: l' := by
  cases l with
  | nil => cases hfind
  | cons a l =>
    have ha : a.2 = false := hlow a List.mem_cons_self
    rw [List.find?_cons_of_pos (by simp [ha])] at hfind
    exact ⟨l, by rw [Option.some.inj hfind]⟩

/-- The samples of a press: at most one while it bounces, then low ones, the first low one finding Idle. -/
theorem Walk.press {l l' : List (ButtonStatus × Bool)} {st st' : ButtonStatus} (h : Walk st (l ++ l') st')
    (hbounce : l.length ≤ 1) (hlow : ∀ a ∈ l', a.2 = false)
    (hfind : (l ++ l').find? (fun a => !a.2) = some (.idle, false)) :
    (l ++ l').countP (enters .pressed) = 1 ∧ (l ++ l').countP (enters .released) = 0 ∧ downCount st' = 1 := by
  match l with
  | [] =>
    obtain ⟨l'', rfl⟩ := eq_cons_of_find_low hlow hfind
    obtain rfl : .idle = st := h.1
    exact h.press_of_first_low fun a ha => hlow a (List.mem_cons_of_mem _ ha)
  | [(b, false)] =>
    obtain rfl : b = .idle := congrArg Prod.fst (Option.some.inj hfind)
    obtain rfl : .idle = st := h.1
    exact h.press_of_first_low hlow
  | [(b, true)] =>
    obtain ⟨-, hrest⟩ := h
    obtain ⟨l'', rfl⟩ := eq_cons_of_find_low hlow hfind
    have hidle : .idle = nextStatus b true := hrest.1
    rw [← hidle] at hrest
    have hreleased : ¬ enters .released (b, true) = true := by simp [enters, ← hidle]
    rw [List.singleton_append, List.countP_cons_of_neg (not_enters_pressed_of_high rfl),
      List.countP_cons_of_neg hreleased]
    exact hrest.press_of_first_low fun a ha => hlow a (List.mem_cons_of_mem _ ha)
  | _ :: _ :: _ => simp at hbounce

/-- High samples take the button for up. -/
theorem Walk.up_of_high {l : List (ButtonStatus × Bool)} {st st' : ButtonStatus} (h : Walk st l st')
    (hhigh : ∀ a ∈ l, a.2 = true) (hup : l ≠ [] ∨ downCount st = 0) : downCount st' = 0 := by
  induction l generalizing st with
  | nil =>
    obtain rfl : st = st' := h
    exact hup.resolve_left (fun hne => hne rfl)
  | cons a l ih =>
    obtain ⟨ha, hl⟩ := List.forall_mem_cons.1 hhigh
    have hnext : downCount (nextStatus a.1 a.2) = 0 := ha ▸ downCount_nextStatus_high a.1
    exact ih h.2 hl (.inr hnext)

/-- The samples of a release: at most one while it bounces, then high ones, one of all these reading high. -/
theorem Walk.release {l l' : List (ButtonStatus × Bool)} {st st' : ButtonStatus} (h : Walk st (l ++ l') st')
    (hbounce : l.length ≤ 1) (hhigh : ∀ a ∈ l', a.2 = true) (hdown : downCount st = 1)
    (hseen : ∃ a ∈ l ++ l', a.2 = true) :
    (l ++ l').countP (enters .pressed) = 0 ∧ (l ++ l').countP (enters .released) = 1 ∧ downCount st' = 0 := by
  have hbalance := h.balance
  have hsettled : l'.countP (enters .pressed) = 0 :=
    List.countP_eq_zero.2 fun a ha => not_enters_pressed_of_high (hhigh a ha)
  have hends : l.countP (enters .pressed) = 0 ∧ downCount st' = 0 := by
    match l with
    | [] =>
      obtain ⟨a, ha, -⟩ := hseen
      exact ⟨rfl, h.up_of_high hhigh (.inl (List.ne_nil_of_mem ha))⟩
    | [a] =>
      obtain ⟨rfl, hrest⟩ := h
      refine ⟨List.countP_eq_zero.2 (by simpa using not_enters_pressed_of_down hdown), hrest.up_of_high hhigh ?_⟩
      obtain ⟨b, hb, hbhigh⟩ := hseen
      obtain rfl | hb := List.mem_cons.1 hb
      · exact .inr (hbhigh ▸ downCount_nextStatus_high b.1)
      · exact .inl (List.ne_nil_of_mem hb)
    | _ :: _ :: _ => simp at hbounce
  rw [List.countP_append] at hbalance ⊢
  omega

theorem pin_of_runsTo {es : List Event} {s t : State} (hrun : RunsTo es s t) :
    t.block.pin = levelAfter s.block.pin es := by
  induction es generalizing s with
  | nil => rw [(runsTo_nil s t).1 hrun]; rfl
  | cons e es ih =>
    obtain ⟨u, hu, hrest⟩ := (runsTo_cons _ _ _ _).1 hrun
    rw [ih hrest, pin_of_perform hu, ← levelAfter_cons]

theorem samples_level_of_no_pin {es : List Event} {s t : State} (hpin : ∀ e ∈ es, isPin e = false)
    (hrun : RunsTo es s t) : ∀ a ∈ samples es s, a.2 = s.block.pin := by
  induction es generalizing s with
  | nil => exact fun a ha => nomatch ha
  | cons e es ih =>
    obtain ⟨u, hu, hrest⟩ := (runsTo_cons _ _ _ _).1 hrun
    obtain ⟨he, hes⟩ := List.forall_mem_cons.1 hpin
    have hlevel : u.block.pin = s.block.pin := (pin_of_perform hu).trans (levelAfter_of_not_isPin he _)
    intro a ha
    rw [samples_cons hu, List.mem_append] at ha
    obtain hfirst | hlater := ha
    · rw [mem_sampleOf hfirst]
    · rw [ih hes hrest a hlater, hlevel]

/-- The samples after an edge to level `v` that bounces for GUARD_US units and then settles: at most one in the bounce, and
all others of that level. -/
theorem samples_of_bounced_edge {v : Bool} {x y : List Event} {s t : State}
    (hrestart : ∀ e ∈ x ++ y, restartsDebouncer e = false) (hbounce : tbCount x + 1 = 3000) (hlevel : levelAfter v x = v)
    (hpin : ∀ e ∈ y, isPin e = false) (hrun : RunsTo (.pin v :: x ++ .tb :: y) s t) :
    Walk s.block.status (samples (.pin v :: x ++ .tb :: y) s) t.block.status ∧
      ∃ l l', samples (.pin v :: x ++ .tb :: y) s = l ++ l' ∧ l.length ≤ 1 ∧ ∀ a ∈ l', a.2 = v := by
  obtain ⟨hx, hy⟩ := List.forall_mem_append.1 hrestart
  have hbounceRestart : ∀ e ∈ Event.pin v :: x, restartsDebouncer e = false := List.forall_mem_cons.2 ⟨rfl, hx⟩
  have hsettledRestart : ∀ e ∈ Event.tb :: y, restartsDebouncer e = false := List.forall_mem_cons.2 ⟨rfl, hy⟩
  have hcount : tbCount (.pin v :: x) = 0 + tbCount x := tbCount_cons _ _
  obtain ⟨u, hu, ht⟩ := (runsTo_append _ _ _ _).1 hrun
  have hpinU : u.block.pin = v := (pin_of_runsTo hu).trans hlevel
  refine ⟨samples_walk (List.forall_mem_append.2 ⟨hbounceRestart, hsettledRestart⟩) hrun, _, _, samples_append hu,
    length_samples_le_one hbounceRestart hu (by omega), fun a ha => ?_⟩
  exact (samples_level_of_no_pin (List.forall_mem_cons.2 ⟨rfl, hpin⟩) ht a ha).trans hpinU

/-- The last sentence of R137: an accepted poll takes Released to Idle, whatever the level (R132). -/
theorem rdBtnPoll_of_released {s t : State} (hstatus : s.block.status = .released) (hacc : accepted s.block = true)
    (hexec : exec .rdBtnPoll s = .next t) : t.block.status = .idle := by
  obtain rfl := eq_of_exec_eq_next hexec
  simp only [effect, poll_of_accepted hacc, hstatus, nextStatus]

/-- Settles O20: the press part enters Pressed once and ends with the button down, from where the release part enters
Released once. -/
theorem bouncedPressIsObservedOnce : Obligations.BouncedPressIsObservedOnce := by
  intro s u t x y x' y' hrestart hx hlow hy hx' hhigh hy' hpress hrelease hfind hseen
  rw [List.append_assoc, List.forall_mem_append] at hrestart
  obtain ⟨hrestart, hrestart'⟩ := hrestart
  obtain ⟨hwalk, l, m, hsamples, hl, hm⟩ := samples_of_bounced_edge hrestart hx hlow hy hpress
  obtain ⟨hwalk', l', m', hsamples', hl', hm'⟩ := samples_of_bounced_edge hrestart' hx' hhigh hy' hrelease
  rw [hsamples] at hwalk hfind
  rw [hsamples'] at hwalk' hseen
  obtain ⟨hpressed, hreleased, hdown⟩ := hwalk.press hl hm hfind
  obtain ⟨hpressed', hreleased', hup⟩ := hwalk'.release hl' hm' hdown hseen
  simp only [entriesInto_eq_countP, hsamples, hsamples', hpressed, hreleased, hpressed', hreleased']
  exact ⟨trivial, trivial, (downCount_eq_zero_iff _).1 hup, fun v => rdBtnPoll_of_released⟩

end Sys2Proof.Safety
end

section
/-! SUPPORT. The input line and the wake-edge detector (41_button.md R130, R150 to R155): PIN(v), what an event makes of ARM
and PEND, and the run without a press that no sample saw (R138). -/

namespace Sys2Proof.Safety

open Sys2Proof Sys2Proof.Machine

/-! ### PIN(v) (41_button.md R130, R150) -/

theorem pinBlock_of_fires {v : Bool} {b : Block} (h : v ≠ b.pin ∧ b.arm = true) :
    pinBlock v b = { b with pin := v, arm := false, pend := true } := by
  obtain ⟨hedge, harm⟩ := h
  simp [pinBlock, hedge, harm, fireWake]

theorem pinBlock_of_not_fires {v : Bool} {b : Block} (h : ¬(v ≠ b.pin ∧ b.arm = true)) :
    pinBlock v b = { b with pin := v } := by
  have hcond : ¬ (v != b.pin && b.arm) = true := by simpa using h
  rw [pinBlock, if_neg hcond]

theorem step_of_pin {s : State} {v : Bool} (h : nextEvent s = .pin v) :
    step s = .next { takeEvent s with block := pinBlock v s.block, resp := none } := by
  rw [step_of_nextEvent h, ← takeEvent_block s]
  rfl

/-- Settles O26: the two branches of PIN(v); no other event writes PIN, and only a sample or a reset moves the debouncer. -/
theorem pinEventsAloneWriteThePin : Obligations.PinEventsAloneWriteThePin := by
  refine ⟨fun s v hnext => ⟨_, step_of_pin hnext, pinBlock_of_fires, pinBlock_of_not_fires⟩,
    fun s t hstep hpin => ?pin, fun s t hstep hpoll hrestart => ?debouncer⟩
  case pin =>
    rw [pin_of_perform hstep, levelAfter_of_not_isPin hpin, takeEvent_block]
  case debouncer =>
    rw [← takeEvent_block s]
    obtain ⟨hone, -⟩ | ⟨-, hkept⟩ := perform_debouncer hrestart hstep
    · rw [sampleOf_of_not_isPoll hpoll] at hone
      cases hone
    · exact hkept

/-! ### What an event makes of ARM and PEND (41_button.md R150, R152, R153) -/

/-- No operation but WR_WAKE writes ARM or PEND (30_encoding.md R72). -/
theorem effect_keeps_wake {i : Instr} (h : ∀ wdata, i ≠ .wrWake wdata) (b : Block) :
    (effect i b).arm = b.arm ∧ (effect i b).pend = b.pend := by
  cases i with
  | rdTimeUs | rdTimeMs | rdTicks | rdSubtick | rdBtnStatus | rdSpk | rdWake => exact ⟨rfl, rfl⟩
  | rdBtnPoll => exact ⟨poll_arm b, poll_pend b⟩
  | wrBtnCtrl wdata =>
    simp only [effect]
    split
    · exact ⟨btnReset_arm b, btnReset_pend b⟩
    · exact ⟨rfl, rfl⟩
  | wrDuty _ | wrSpk _ => exact ⟨rfl, rfl⟩
  | wrWake wdata => exact absurd rfl (h wdata)

theorem armsWake_of_wrWake {d : Descriptor} {wdata w : Word} (h : decode d wdata = .ok (.wrWake w)) :
    armsWake (.bus d wdata) = armBit w := by
  simp only [armsWake, opOf_of_decoded h]

theorem clearsPend_of_wrWake {d : Descriptor} {wdata w : Word} (h : decode d wdata = .ok (.wrWake w)) :
    clearsPend (.bus d wdata) = pendClearBit w := by
  simp [clearsPend, opOf_of_decoded h]

theorem clearsPend_of_not_wrWake {d : Descriptor} {wdata : Word} {i : Instr} (hdec : decode d wdata = .ok i)
    (h : ∀ w, i ≠ .wrWake w) : clearsPend (.bus d wdata) = false := by
  cases i with
  | wrWake w => exact absurd rfl (h w)
  | rdTimeUs | rdTimeMs | rdTicks | rdSubtick | rdBtnPoll | rdBtnStatus | wrBtnCtrl _ | wrDuty _ | rdSpk | wrSpk _
  | rdWake => simp [clearsPend, opOf_of_decoded hdec]

theorem firesIn_iff (e : Event) (s : State) :
    firesIn e s = true ↔ e = .pin (!s.block.pin) ∧ s.block.arm = true := by
  cases e with
  | pin v => simp [firesIn, Bool.eq_not_iff]
  | tb | bus _ _ | reset => simp [firesIn]

theorem firesIn_congr {s s' : State} (h : s.block = s'.block) (e : Event) : firesIn e s = firesIn e s' := by
  cases e with
  | pin v => simp only [firesIn, h]
  | tb | bus _ _ | reset => rfl

/-- PEND after any event: set by a firing, cleared by a WAKE write with bit 1 set or RESET, else as it was. -/
theorem pend_of_perform {e : Event} {s t : State} (h : perform e s = .next t) :
    t.block.pend = ((s.block.pend || firesIn e s) && !clearsPend e) := by
  obtain ⟨rfl, rfl⟩ | ⟨v, rfl, rfl⟩ | ⟨rfl, rfl⟩ | ⟨d, wdata, i, rfl, hdec, rfl⟩ := perform_cases h
  · simp [firesIn, clearsPend, opOf]
  · simp [firesIn, clearsPend, opOf]
  · simp [clearsPend]
  · by_cases hwake : ∃ w, i = .wrWake w
    · obtain ⟨w, rfl⟩ := hwake
      simp [effect, firesIn, clearsPend_of_wrWake hdec]
    · have hother : ∀ w, i ≠ .wrWake w := not_exists.1 hwake
      simp [firesIn, clearsPend_of_not_wrWake hdec hother, (effect_keeps_wake hother s.block).2]

/-- After an event that leaves ARM set nothing has fired, and either it set ARM or ARM was set before it. -/
theorem of_arm_after_perform {e : Event} {s t : State} (h : perform e s = .next t) (harm : t.block.arm = true) :
    firesIn e s = false ∧ (armsWake e = true ∨ s.block.arm = true) := by
  obtain ⟨rfl, rfl⟩ | ⟨v, rfl, rfl⟩ | ⟨rfl, rfl⟩ | ⟨d, wdata, i, rfl, hdec, rfl⟩ := perform_cases h
  · exact ⟨rfl, .inr ((tbBlock_arm s.block).symm.trans harm)⟩
  · rw [pinBlock_arm, Bool.and_eq_true, beq_iff_eq] at harm
    obtain ⟨hbefore, hlevel⟩ := harm
    exact ⟨by simp [firesIn, hlevel], .inr hbefore⟩
  · cases harm
  · refine ⟨rfl, ?_⟩
    by_cases hwake : ∃ w, i = .wrWake w
    · obtain ⟨w, rfl⟩ := hwake
      exact .inl ((armsWake_of_wrWake hdec).trans harm)
    · exact .inr ((effect_keeps_wake (not_exists.1 hwake) s.block).1.symm.trans harm)

/-- Settles O27: PEND is new only where the event fires, which is the armed change of level. -/
theorem wakeFiresOnArmedEdgesOnly : Obligations.WakeFiresOnArmedEdgesOnly := by
  refine ⟨fun s t hstep hbefore hafter => ?only, fun s hnext harm => ?fires⟩
  case only =>
    rw [pend_of_perform hstep, takeEvent_block, hbefore, firesIn_congr (takeEvent_block s), Bool.false_or,
      Bool.and_eq_true] at hafter
    exact (firesIn_iff _ _).1 hafter.1
  case fires =>
    exact ⟨_, step_of_pin hnext, pinBlock_of_fires ⟨Bool.not_ne_self _, harm⟩⟩

/-! ### The wake request and the arming over a run (41_button.md R153, R154) -/

theorem pend_of_runsTo {es : List Event} {s t : State} (hclear : ∀ e ∈ es, clearsPend e = false)
    (hrun : RunsTo es s t) (hpend : s.block.pend = true) : t.block.pend = true := by
  induction es generalizing s with
  | nil => rwa [← (runsTo_nil s t).1 hrun]
  | cons e es ih =>
    obtain ⟨u, hu, hrest⟩ := (runsTo_cons _ _ _ _).1 hrun
    obtain ⟨he, hes⟩ := List.forall_mem_cons.1 hclear
    exact ih hes hrest (by rw [pend_of_perform hu, hpend, he]; rfl)

/-- Settles O28: an event clears PEND exactly where `clearsPend` says so. -/
theorem wakeRequestStaysUntilCleared : Obligations.WakeRequestStaysUntilCleared := by
  refine ⟨fun _ => rfl, fun s t es => pend_of_runsTo, fun s t hclear hstep => ?_⟩
  rw [wakeIrq, pend_of_perform hstep, hclear]
  exact Bool.and_false _

theorem firings_cons {e : Event} {es : List Event} {s u : State} (h : perform e s = .next u) :
    firings (e :: es) s = (firesIn e s).toNat + firings es u := by
  rw [firings, along_cons _ h, List.length_append, firings]
  cases firesIn e s <;> rfl

/-- Without an arming a firing uses up ARM. -/
theorem firing_uses_arm {e : Event} {s t : State} (harms : armsWake e = false) (h : perform e s = .next t) :
    (firesIn e s).toNat + t.block.arm.toNat ≤ s.block.arm.toNat := by
  cases hafter : t.block.arm with
  | true =>
    obtain ⟨hquiet, hbefore⟩ := of_arm_after_perform h hafter
    have hwas : s.block.arm = true := hbefore.resolve_left (ne_true_of_eq_false harms)
    rw [hquiet, hwas]
    exact Nat.le_refl 1
  | false =>
    cases hfires : firesIn e s with
    | true => simp [((firesIn_iff e s).1 hfires).2]
    | false => exact Nat.zero_le _

theorem firings_use_arm {es : List Event} {s t : State} (harms : ∀ e ∈ es, armsWake e = false) (hrun : RunsTo es s t) :
    firings es s + t.block.arm.toNat ≤ s.block.arm.toNat := by
  induction es generalizing s with
  | nil =>
    obtain rfl := (runsTo_nil s t).1 hrun
    exact Nat.le_of_eq (Nat.zero_add _)
  | cons e es ih =>
    obtain ⟨u, hu, hrest⟩ := (runsTo_cons _ _ _ _).1 hrun
    obtain ⟨he, hes⟩ := List.forall_mem_cons.1 harms
    have hfirst := firing_uses_arm he hu
    have hlater := ih hes hrest
    rw [firings_cons hu]
    omega

/-- Settles O29: the firings and ARM at the end are together at most ARM at the start. -/
theorem wakeFiresAtMostOncePerArming : Obligations.WakeFiresAtMostOncePerArming := by
  intro s t es harms hrun
  have huse := firings_use_arm harms hrun
  have hle := Bool.toNat_le s.block.arm
  refine ⟨by omega, fun hdisarmed => ?_, fun honce => ?_⟩
  · rw [hdisarmed, Bool.toNat_false] at huse
    omega
  · rw [← Bool.toNat_eq_zero]
    omega

/-! ### RD_WAKE and WR_WAKE (41_button.md R151, R152) -/

theorem wakeWord_toNat (pend arm : Bool) :
    (wakeWord pend arm).toNat = (if pend then 2 else 0) + (if arm then 1 else 0) := by
  cases pend <;> cases arm <;> rfl

/-- Settles O30: an event that leaves ARM set did not fire, so PEND was set before it, and ARM can only be new. -/
theorem rdWakeReturnsPendAndArm : Obligations.RdWakeReturnsPendAndArm := by
  refine ⟨decode_rdWake, fun s => ⟨_, exec_eq .rdWake s, rfl, _, rfl, wakeWord_toNat _ _⟩,
    fun s t hstep hnotBoth harm hpend => ?_⟩
  obtain ⟨hquiet, harmed⟩ := of_arm_after_perform hstep harm
  rw [pend_of_perform hstep, hquiet, Bool.or_false, Bool.and_eq_true] at hpend
  rw [takeEvent_block] at hpend harmed
  obtain ⟨hbefore, -⟩ := hpend
  exact ⟨harmed.resolve_right fun h => hnotBoth ⟨h, hbefore⟩, hbefore⟩

/-- Settles O31: ARM is bit 0 as it is written, and PEND keeps its value unless bit 1 clears it. -/
theorem wrWakeWritesArmAndClearsPend : Obligations.WrWakeWritesArmAndClearsPend := by
  refine ⟨decode_wrWake, fun s wdata => ⟨_, exec_eq (.wrWake wdata) s, rfl, armBit_iff wdata, ?_⟩⟩
  change (s.block.pend && !pendClearBit wdata) = true ↔ _
  have hkept : pendClearBit wdata = false ↔ wdata.toNat / 2 % 2 = 0 := by
    rw [← Bool.not_eq_true, pendClearBit_iff]
    omega
  rw [Bool.and_eq_true, Bool.not_eq_true', hkept]

/-! ### A press that no accepted sample saw (41_button.md R138) -/

/-- The event in the world without the press: every level delivered is high (`withoutPress_cons`). -/
def madeHigh (e : Event) : Event := if isPin e then .pin true else e

theorem withoutPress_cons (e : Event) (es : List Event) : withoutPress (e :: es) = madeHigh e :: withoutPress es := rfl

theorem madeHigh_of_not_isPin {e : Event} (h : isPin e = false) : madeHigh e = e := by
  simp [madeHigh, h]

/-- A level delivered changes no other field than PIN, ARM and PEND, whatever the level: the block `c` of the world without
the press has its button up and agrees with `b` on the debouncer, the timebase and the driver registers. -/
structure AgreesButPress (b c : Block) : Prop where
  ticks : b.ticks = c.ticks
  sub : b.sub = c.sub
  status : b.status = c.status
  last : b.last = c.last
  duty : b.duty = c.duty
  spkEn : b.spkEn = c.spkEn
  high : c.pin = true

namespace AgreesButPress

variable {b c : Block}

theorem us_eq (h : AgreesButPress b c) : us b = us c := us_congr h.ticks h.sub

theorem accepted_eq (h : AgreesButPress b c) : accepted b = accepted c := by
  rw [accepted, accepted, elapsed, elapsed, h.us_eq, h.last]

theorem afterTb (h : AgreesButPress b c) : AgreesButPress (tbBlock b) (tbBlock c) := by
  constructor <;> simp [h.ticks, h.sub, h.status, h.last, h.duty, h.spkEn, h.high]

theorem afterPin (h : AgreesButPress b c) (v : Bool) : AgreesButPress (pinBlock v b) (pinBlock true c) := by
  constructor <;> simp [h.ticks, h.sub, h.status, h.last, h.duty, h.spkEn]

theorem afterReset (h : AgreesButPress b c) : AgreesButPress (resetBlock b) (resetBlock c) := by
  constructor <;> simp [h.high]

/-- A poll sees the level only where it is accepted, and there it is high in both worlds. -/
theorem afterPoll (h : AgreesButPress b c) (hhigh : accepted b = true → b.pin = true) :
    AgreesButPress (poll b) (poll c) := by
  have hstatus : (poll b).status = (poll c).status := by
    rw [poll_status, poll_status, ← h.accepted_eq, h.status, h.high]
    split
    · next hacc => rw [hhigh hacc]
    · rfl
  have hlast : (poll b).last = (poll c).last := by simp [h.last, h.us_eq, h.accepted_eq]
  exact ⟨by simp [h.ticks], by simp [h.sub], hstatus, hlast, by simp [h.duty], by simp [h.spkEn], by simp [h.high]⟩

theorem afterBtnReset (h : AgreesButPress b c) : AgreesButPress (btnReset b) (btnReset c) :=
  ⟨h.ticks, h.sub, rfl, h.us_eq, h.duty, h.spkEn, h.high⟩

theorem afterEffect (h : AgreesButPress b c) {i : Instr}
    (hhigh : i = .rdBtnPoll → accepted b = true → b.pin = true) : AgreesButPress (effect i b) (effect i c) := by
  cases i with
  | rdTimeUs | rdTimeMs | rdTicks | rdSubtick | rdBtnStatus | rdSpk | rdWake => exact h
  | rdBtnPoll => exact h.afterPoll (hhigh rfl)
  | wrBtnCtrl wdata =>
    simp only [effect]
    split
    · exact h.afterBtnReset
    · exact h
  | wrDuty _ => exact ⟨h.ticks, h.sub, h.status, h.last, rfl, h.spkEn, h.high⟩
  | wrSpk _ => exact ⟨h.ticks, h.sub, h.status, h.last, h.duty, rfl, h.high⟩
  | wrWake _ => exact ⟨h.ticks, h.sub, h.status, h.last, h.duty, h.spkEn, h.high⟩

end AgreesButPress

/-- Where the level sampled, if any, is high, the same is sampled in the world without the press. -/
theorem sampleOf_madeHigh {e : Event} {s s' : State} (h : AgreesButPress s.block s'.block)
    (hhigh : ∀ a ∈ sampleOf e s, a.2 = true) : sampleOf (madeHigh e) s' = sampleOf e s := by
  cases e with
  | pin _ | tb | reset => rw [sampleOf_of_not_isPoll rfl, sampleOf_of_not_isPoll rfl]
  | bus d wdata =>
    rw [madeHigh_of_not_isPin rfl]
    unfold sampleOf at hhigh ⊢
    rw [← h.accepted_eq]
    split at hhigh
    · next hsampled =>
      have hpin : s.block.pin = true := hhigh _ (List.mem_singleton.2 rfl)
      rw [if_pos hsampled, if_pos hsampled, h.status, hpin, h.high]
    · next hnot => rw [if_neg hnot, if_neg hnot]

theorem perform_madeHigh {e : Event} {s s' t : State} (h : AgreesButPress s.block s'.block)
    (hhigh : ∀ a ∈ sampleOf e s, a.2 = true) (ht : perform e s = .next t) :
    ∃ t', perform (madeHigh e) s' = .next t' ∧ AgreesButPress t.block t'.block := by
  obtain ⟨rfl, rfl⟩ | ⟨v, rfl, rfl⟩ | ⟨rfl, rfl⟩ | ⟨d, wdata, i, rfl, hdec, rfl⟩ := perform_cases ht
  · exact ⟨_, rfl, h.afterTb⟩
  · exact ⟨_, rfl, h.afterPin v⟩
  · exact ⟨_, rfl, h.afterReset⟩
  · refine ⟨_, perform_of_decoded hdec s', h.afterEffect fun hpoll hacc => ?_⟩
    have hsampled : sampleOf (.bus d wdata) s = [(s.block.status, s.block.pin)] := by
      simp [sampleOf, (isPoll_iff_of_decoded hdec).2 hpoll, hacc]
    exact hhigh (s.block.status, s.block.pin) (by rw [hsampled]; exact List.mem_singleton.2 rfl)

theorem runsTo_withoutPress {es : List Event} {s s' t : State} (h : AgreesButPress s.block s'.block)
    (hrun : RunsTo es s t) (hhigh : ∀ a ∈ samples es s, a.2 = true) :
    ∃ t', RunsTo (withoutPress es) s' t' ∧ AgreesButPress t.block t'.block ∧
      samples (withoutPress es) s' = samples es s := by
  induction es generalizing s s' with
  | nil =>
    obtain rfl := (runsTo_nil s t).1 hrun
    exact ⟨s', (runsTo_nil _ _).2 rfl, h, rfl⟩
  | cons e es ih =>
    obtain ⟨u, hu, hrest⟩ := (runsTo_cons _ _ _ _).1 hrun
    rw [samples_cons hu, List.forall_mem_append] at hhigh
    obtain ⟨hfirst, hlater⟩ := hhigh
    obtain ⟨u', hu', hagrees⟩ := perform_madeHigh h hfirst hu
    obtain ⟨t', ht', hend, hsamples⟩ := ih hagrees hrest hlater
    refine ⟨t', (runsTo_cons _ _ _ _).2 ⟨u', hu', ht'⟩, hend, ?_⟩
    rw [withoutPress_cons, samples_cons hu', samples_cons hu, hsamples, sampleOf_madeHigh h hfirst]

/-- Where ARM is clear and never written, no level delivered reaches PEND: the clearing events alone decide it. -/
theorem wake_of_disarmed_run {es : List Event} {s t : State} (harm : s.block.arm = false)
    (harms : ∀ e ∈ es, armsWake e = false) (hrun : RunsTo es s t) :
    t.block.arm = false ∧ t.block.pend = (s.block.pend && !es.any clearsPend) := by
  induction es generalizing s with
  | nil =>
    obtain rfl := (runsTo_nil s t).1 hrun
    exact ⟨harm, (Bool.and_true _).symm⟩
  | cons e es ih =>
    obtain ⟨u, hu, hrest⟩ := (runsTo_cons _ _ _ _).1 hrun
    obtain ⟨he, hes⟩ := List.forall_mem_cons.1 harms
    have huse := firing_uses_arm he hu
    rw [harm, Bool.toNat_false, Nat.le_zero, Nat.add_eq_zero_iff, Bool.toNat_eq_zero, Bool.toNat_eq_zero] at huse
    obtain ⟨hquiet, harm'⟩ := huse
    obtain ⟨hend, hpend⟩ := ih harm' hes hrest
    refine ⟨hend, ?_⟩
    rw [hpend, pend_of_perform hu, hquiet, Bool.or_false, List.any_cons, Bool.not_or, Bool.and_assoc]

theorem armsWake_madeHigh (e : Event) : armsWake (madeHigh e) = armsWake e := by
  cases e <;> rfl

theorem clearsPend_madeHigh (e : Event) : clearsPend (madeHigh e) = clearsPend e := by
  cases e <;> rfl

theorem any_clearsPend_withoutPress (es : List Event) :
    (withoutPress es).any clearsPend = es.any clearsPend := by
  have hcomp : clearsPend ∘ madeHigh = clearsPend := funext clearsPend_madeHigh
  calc (withoutPress es).any clearsPend = (es.map madeHigh).any clearsPend := rfl
    _ = es.any clearsPend := by rw [List.any_map, hcomp]

theorem armsWake_withoutPress {es : List Event} (h : ∀ e ∈ es, armsWake e = false) :
    ∀ e ∈ withoutPress es, armsWake e = false := by
  intro e he
  obtain ⟨e', he', rfl⟩ : ∃ e' ∈ es, madeHigh e' = e := List.mem_map.1 he
  exact (armsWake_madeHigh e').trans (h e' he')

/-- Settles O21: the run without the press agrees step by step, and a run never armed keeps ARM and PEND from the pin. -/
theorem unsampledPressIsNeverObserved : Obligations.UnsampledPressIsNeverObserved := by
  intro s t es hpin hrun hhigh
  obtain ⟨t', hrun', hagrees, hsamples⟩ := runsTo_withoutPress ⟨rfl, rfl, rfl, rfl, rfl, rfl, hpin⟩ hrun hhigh
  refine ⟨t', hrun', hagrees.status.symm, hagrees.last.symm, hagrees.ticks.symm, hagrees.sub.symm, hagrees.duty.symm,
    hagrees.spkEn.symm, hsamples, fun hend => ?level, fun hdisarmed harms => ?wake⟩
  case level => rw [hagrees.high, pin_of_runsTo hrun, hpin, hend]
  case wake =>
    obtain ⟨harm, hpend⟩ := wake_of_disarmed_run hdisarmed harms hrun
    obtain ⟨harm', hpend'⟩ := wake_of_disarmed_run hdisarmed (armsWake_withoutPress harms) hrun'
    exact ⟨harm'.trans harm.symm, by rw [hpend', hpend, any_clearsPend_withoutPress]⟩

end Sys2Proof.Safety
end

section
/-! SUPPORT. The PWM (42_pwm.md): the writes of DUTY and SPK_EN and what else reaches them (R174 to R177, R179), the high
units of a run (R170, R178) and of the tone (R173). -/

namespace Sys2Proof.Safety

open Sys2Proof Sys2Proof.Machine

/-! ### WR_DUTY, RD_SPK and WR_SPK (42_pwm.md R175 to R177) -/

/-- DUTY is write-only (10_state.md R33). -/
theorem decode_read_duty (wdata : Word) : decode 0x09C#9 wdata = .error .direction := rfl

/-- Settles O32: the new DUTY is the low byte, and the compare of the block after the write is against it. -/
theorem wrDutyWritesTheLowByte : Obligations.WrDutyWritesTheLowByte := by
  refine ⟨fun wdata => ⟨decode_wrDuty wdata, decode_read_duty wdata⟩,
    fun s wdata => ⟨_, exec_eq (.wrDuty wdata) s, rfl, dutyField_toNat wdata, ?_⟩⟩
  rw [pwm_iff, ← dutyField_toNat]
  rfl

theorem spkWord_toNat (spkEn : Bool) : (spkWord spkEn).toNat = if spkEn then 1 else 0 := by
  cases spkEn <;> rfl

/-- Settles O33: the read answers the speaker word of the block it leaves as it was. -/
theorem rdSpkReturnsTheSpeakerEnable : Obligations.RdSpkReturnsTheSpeakerEnable :=
  ⟨decode_rdSpk, fun s => ⟨_, exec_eq .rdSpk s, rfl, _, rfl, spkWord_toNat s.block.spkEn⟩⟩

/-- Settles O34: SPK_EN is bit 0 as it is written, and full DUTY leaves one low phase whatever SPK_EN is. -/
theorem wrSpkWritesTheSpeakerEnable : Obligations.WrSpkWritesTheSpeakerEnable := by
  refine ⟨decode_wrSpk, fun s wdata => ⟨_, exec_eq (.wrSpk wdata) s, rfl, spkBit_iff wdata, rfl, fun hfull => ?_⟩⟩
  rw [← Bool.not_eq_false, ne_eq, not_iff_not]
  exact pwm_eq_false_iff_of_duty_eq_255 (b := { s.block with spkEn := spkBit wdata }) hfull

/-! ### What else reaches DUTY and SPK_EN (42_pwm.md R174, R179) -/

/-- An operation writes DUTY alone, SPK_EN alone, or neither (30_encoding.md R72). -/
theorem effect_drivers (i : Instr) (b : Block) :
    (∃ wdata, i = .wrDuty wdata ∧ (effect i b).spkEn = b.spkEn) ∨
    (∃ wdata, i = .wrSpk wdata ∧ (effect i b).duty = b.duty) ∨
    ((effect i b).duty = b.duty ∧ (effect i b).spkEn = b.spkEn) := by
  cases i with
  | wrDuty wdata => exact .inl ⟨wdata, rfl, rfl⟩
  | wrSpk wdata => exact .inr (.inl ⟨wdata, rfl, rfl⟩)
  | rdTimeUs | rdTimeMs | rdTicks | rdSubtick | rdBtnStatus | rdSpk | rdWake | wrWake _ => exact .inr (.inr ⟨rfl, rfl⟩)
  | rdBtnPoll => exact .inr (.inr ⟨poll_duty b, poll_spkEn b⟩)
  | wrBtnCtrl wdata =>
    simp only [effect]
    split
    · exact .inr (.inr ⟨btnReset_duty b, btnReset_spkEn b⟩)
    · exact .inr (.inr ⟨rfl, rfl⟩)

/-- An event that is no RESET writes DUTY alone, SPK_EN alone, or neither. -/
theorem perform_drivers {e : Event} {s t : State} (hreset : e ≠ .reset) (h : perform e s = .next t) :
    (∃ wdata, opOf e = some (.wrDuty wdata) ∧ t.block.spkEn = s.block.spkEn) ∨
    (∃ wdata, opOf e = some (.wrSpk wdata) ∧ t.block.duty = s.block.duty) ∨
    (t.block.duty = s.block.duty ∧ t.block.spkEn = s.block.spkEn) := by
  obtain ⟨-, rfl⟩ | ⟨v, -, rfl⟩ | ⟨rfl, -⟩ | ⟨d, wdata, i, rfl, hdec, rfl⟩ := perform_cases h
  · exact .inr (.inr ⟨tbBlock_duty s.block, tbBlock_spkEn s.block⟩)
  · exact .inr (.inr ⟨pinBlock_duty v s.block, pinBlock_spkEn v s.block⟩)
  · exact absurd rfl hreset
  · simpa only [opOf_of_decoded hdec, Option.some_inj] using effect_drivers i s.block

/-- Settles O39: each of the two registers is written by one operation, which leaves the other. -/
theorem driverRegistersAreIndependent : Obligations.DriverRegistersAreIndependent := by
  intro s t hstep hreset
  have hdrivers := perform_drivers hreset hstep
  rw [takeEvent_block] at hdrivers
  obtain ⟨wdata, hop, hspk⟩ | ⟨wdata, hop, hduty⟩ | ⟨hduty, hspk⟩ := hdrivers
  · exact ⟨fun _ => ⟨wdata, hop, hspk⟩, fun hchanged => absurd hspk hchanged⟩
  · exact ⟨fun hchanged => absurd hduty hchanged, fun _ => ⟨wdata, hop, hduty⟩⟩
  · exact ⟨fun hchanged => absurd hduty hchanged, fun hchanged => absurd hspk hchanged⟩

theorem ne_reset_of_not_setsDuty {e : Event} (h : setsDuty e = false) : e ≠ .reset := by
  rintro rfl
  cases h

theorem duty_of_perform {e : Event} {s t : State} (hset : setsDuty e = false) (h : perform e s = .next t) :
    t.block.duty = s.block.duty := by
  obtain ⟨wdata, hop, -⟩ | ⟨-, -, hduty⟩ | ⟨hduty, -⟩ := perform_drivers (ne_reset_of_not_setsDuty hset) h
  · simp [setsDuty, hop] at hset
  · exact hduty
  · exact hduty

theorem duty_of_runsTo {es : List Event} {s t : State} (hset : ∀ e ∈ es, setsDuty e = false) (hrun : RunsTo es s t) :
    t.block.duty = s.block.duty := by
  induction es generalizing s with
  | nil => rw [(runsTo_nil s t).1 hrun]
  | cons e es ih =>
    obtain ⟨u, hu, hrest⟩ := (runsTo_cons _ _ _ _).1 hrun
    obtain ⟨he, hes⟩ := List.forall_mem_cons.1 hset
    exact (ih hes hrest).trans (duty_of_perform he hu)

/-! ### The phase of the PWM is SUB, which counts the TB events modulo 256 (42_pwm.md R170, 40_timebase.md R100) -/

theorem sub_of_perform {e : Event} {s t : State} (hreset : e ≠ .reset) (h : perform e s = .next t) :
    t.block.sub.toNat = (s.block.sub.toNat + tbCount [e]) % 256 := by
  rw [sub_toNat, sub_toNat, fullTime_of_perform hreset h]
  omega

theorem sub_of_runsTo {es : List Event} {s t : State} (hreset : ∀ e ∈ es, e ≠ .reset) (hrun : RunsTo es s t) :
    t.block.sub.toNat = (s.block.sub.toNat + tbCount es) % 256 := by
  rw [sub_toNat, sub_toNat, fullTime_of_runsTo hreset hrun]
  omega

theorem sub_tbs (n : Nat) (b : Block) : (tbBlock^[n] b).sub.toNat = (b.sub.toNat + n) % 256 := by
  rw [sub_toNat, sub_toNat, fullTime_tbs]
  omega

/-! ### The high phases at a constant DUTY (42_pwm.md R170)

A run may start at any phase and pass the end of the period. Its units are counted on from a phase `q`, so that unit `k` has
SUB = k mod 256; `highUnits_of_runsTo` ties the count to the run. -/

/-- How many of the units 0, 1, …, n - 1, unit 0 at SUB = 0, are high at DUTY = `duty`. -/
def highPhases (duty n : Nat) : Nat := Nat.count (fun k => k % 256 < duty) n

theorem highPhases_zero (duty : Nat) : highPhases duty 0 = 0 := Nat.count_zero _

theorem highPhases_succ (duty n : Nat) :
    highPhases duty (n + 1) = highPhases duty n + if n % 256 < duty then 1 else 0 := Nat.count_succ _ n

/-- Within one period the high phases come first. -/
theorem highPhases_of_le_period {n : Nat} (duty : Nat) (h : n ≤ 256) : highPhases duty n = min n duty := by
  induction n with
  | zero => rw [highPhases_zero, Nat.zero_min]
  | succ n ih =>
    rw [highPhases_succ, ih (Nat.le_of_succ_le h), Nat.mod_eq_of_lt h]
    split <;> omega

/-- A period more is `duty` high units more, whatever the phase it starts at. -/
theorem highPhases_add_period {duty : Nat} (h : duty ≤ 256) (n : Nat) :
    highPhases duty (n + 256) = highPhases duty n + duty := by
  induction n with
  | zero => rw [Nat.zero_add, highPhases_of_le_period duty (Nat.le_refl 256), highPhases_zero]; omega
  | succ n ih => rw [Nat.succ_add, highPhases_succ, ih, highPhases_succ, Nat.add_mod_right]; omega

/-! ### The high units of a run (42_pwm.md R170, R178) -/

theorem highUnits_cons {e : Event} {es : List Event} {s u : State} (h : perform e s = .next u) :
    highUnits (e :: es) s = (e == .tb && pwm s.block).toNat + highUnits es u := by
  rw [highUnits, along_cons _ h, List.length_append, highUnits]
  cases e == .tb && pwm s.block <;> rfl

theorem highUnits_append {es es' : List Event} {s u : State} (h : RunsTo es s u) :
    highUnits (es ++ es') s = highUnits es s + highUnits es' u := by
  rw [highUnits, along_append _ h, List.length_append]
  rfl

/-- One event adds the level of its phase if it is TB, and nothing otherwise. -/
theorem highPhases_add_event {q : Nat} (e : Event) {b : Block} (hq : b.sub.toNat = q % 256) :
    highPhases b.duty.toNat q + (e == .tb && pwm b).toNat = highPhases b.duty.toNat (q + tbCount [e]) := by
  by_cases htb : e = .tb
  · subst htb
    simp [tbCount, highPhases_succ, pwm, hq, Bool.toNat, Bool.cond_decide]
  · simp [tbCount, htb]

/-- While DUTY is constant, the high units of a run from phase `q` are those of the phases it passes. -/
theorem highUnits_of_runsTo {es : List Event} {s t : State} {q : Nat} (hset : ∀ e ∈ es, setsDuty e = false)
    (hrun : RunsTo es s t) (hq : s.block.sub.toNat = q % 256) :
    highPhases s.block.duty.toNat q + highUnits es s = highPhases s.block.duty.toNat (q + tbCount es) := by
  induction es generalizing s q with
  | nil => rfl
  | cons e es ih =>
    obtain ⟨u, hu, hrest⟩ := (runsTo_cons _ _ _ _).1 hrun
    obtain ⟨he, hes⟩ := List.forall_mem_cons.1 hset
    have hq' : u.block.sub.toNat = (q + tbCount [e]) % 256 := by
      rw [sub_of_perform (ne_reset_of_not_setsDuty he) hu, hq, Nat.mod_add_mod]
    have hlater := ih hes hrest hq'
    rw [duty_of_perform he hu] at hlater
    rw [highUnits_cons hu, ← Nat.add_assoc, highPhases_add_event e hq, hlater, tbCount_cons e es, Nat.add_assoc]

/-- From any phase, a period holds DUTY high units. -/
theorem highUnits_of_period {es : List Event} {s t : State} (hset : ∀ e ∈ es, setsDuty e = false)
    (hcount : tbCount es = 256) (hrun : RunsTo es s t) : highUnits es s = s.block.duty.toNat := by
  have hphase : s.block.sub.toNat = s.block.sub.toNat % 256 := (Nat.mod_eq_of_lt s.block.sub.isLt).symm
  have hunits := highUnits_of_runsTo hset hrun hphase
  rw [hcount, highPhases_add_period (Nat.le_of_lt s.block.duty.isLt)] at hunits
  exact Nat.add_left_cancel hunits

/-- Settles O35: the phases of any 256 consecutive units are a whole period. -/
theorem pwmPeriodHoldsDutyHighUnits : Obligations.PwmPeriodHoldsDutyHighUnits :=
  ⟨pwm_iff, fun _ _ _ => highUnits_of_period⟩

/-- The first `p` units of a period, at a constant DUTY. -/
theorem highUnits_of_period_start {es : List Event} {s t : State} {p : Nat} (hset : ∀ e ∈ es, setsDuty e = false)
    (hrun : RunsTo es s t) (hphase : s.block.sub.toNat = 0) (hcount : tbCount es = p) (hp : p ≤ 256) :
    highUnits es s = min p s.block.duty.toNat := by
  have hunits := highUnits_of_runsTo (q := 0) hset hrun hphase
  rwa [hcount, highPhases_zero, Nat.zero_add, Nat.zero_add, highPhases_of_le_period _ hp] at hunits

/-- The rest of a period from phase `p` on, at a constant DUTY. -/
theorem highUnits_of_period_rest {es : List Event} {s t : State} {p : Nat} (hset : ∀ e ∈ es, setsDuty e = false)
    (hrun : RunsTo es s t) (hphase : s.block.sub.toNat = p) (hcount : tbCount es = 256 - p) (hp : p < 256) :
    highUnits es s = s.block.duty.toNat - p := by
  have hduty := s.block.duty.isLt
  have hunits := highUnits_of_runsTo hset hrun (hphase.trans (Nat.mod_eq_of_lt hp).symm)
  rw [hcount, Nat.add_sub_cancel' (Nat.le_of_lt hp), highPhases_of_le_period _ (Nat.le_of_lt hp),
    highPhases_of_le_period _ (Nat.le_refl 256)] at hunits
  omega

/-- A DUTY write is no unit: the run goes on from the block with the new DUTY. -/
theorem perform_wrDuty (s : State) (wdata : Word) :
    perform (.bus 0x19C#9 wdata) s = .next { s with block := { s.block with duty := dutyField wdata }, resp := none } :=
  perform_of_decoded (decode_wrDuty wdata) s

/-- Settles O36: the write splits the period in a start at the old DUTY and a rest at the new one, which the next keeps. -/
theorem midPeriodDutyWriteSplitsThePeriod : Obligations.MidPeriodDutyWriteSplitsThePeriod := by
  intro s t es es' es'' wdata p hsub hp hset hcount hcount' hcount'' hrun
  obtain ⟨hset, hset''⟩ := List.forall_mem_append.1 hset
  obtain ⟨hset, hset'⟩ := List.forall_mem_append.1 hset
  obtain ⟨v, hfirst, hnext⟩ := (runsTo_append _ _ _ _).1 hrun
  obtain ⟨u, hstart, hrest⟩ := (runsTo_append _ _ _ _).1 hfirst
  rw [runsTo_cons_of_perform (perform_wrDuty u wdata)] at hrest
  have hphase : s.block.sub.toNat = 0 := by rw [hsub]; rfl
  have hphase' : u.block.sub.toNat = p := by
    rw [sub_of_runsTo (fun e he => ne_reset_of_not_setsDuty (hset e he)) hstart, hphase, hcount]
    omega
  have hduty : v.block.duty = dutyField wdata := duty_of_runsTo hset' hrest
  constructor
  · rw [highUnits_append hstart, highUnits_cons (perform_wrDuty u wdata),
      highUnits_of_period_start hset hstart hphase hcount (Nat.le_of_lt hp),
      highUnits_of_period_rest hset' hrest hphase' hcount' hp, ← dutyField_toNat]
    exact congrArg _ (Nat.zero_add _)
  · rw [highUnits_append hfirst, highUnits_of_period hset'' hcount'' hnext, hduty, dutyField_toNat]

/-! ### The tone (42_pwm.md R173) -/

theorem duty_tbs (n : Nat) (b : Block) : (tbBlock^[n] b).duty = b.duty := by
  induction n with
  | zero => rfl
  | succ n ih => rw [Function.iterate_succ_apply', tbBlock_duty, ih]

/-- The level of the speaker output after `n` units is the compare at phase SUB + n. -/
theorem spkO_tbs (n : Nat) (b : Block) :
    spkO (tbBlock^[n] b) = decide ((b.sub.toNat + n) % 256 < b.duty.toNat) := by
  rw [spkO, pwm, sub_tbs, duty_tbs]

theorem spkO_tbs_of_duty_eq_zero {b : Block} (h : b.duty = 0) (n : Nat) : spkO (tbBlock^[n] b) = false :=
  pwm_of_duty_eq_zero ((duty_tbs n b).trans h)

theorem exists_tbs_to_phase (b : Block) {q : Nat} (h : q < 256) : ∃ n, (b.sub.toNat + n) % 256 = q := by
  have hsub := b.sub.isLt
  exact ⟨q + 256 - b.sub.toNat, by omega⟩

/-- A shift by `k` is seen where phase 0, which is high, goes to a low phase, or the last phase, which is low, to a high
one. -/
theorem exists_phase_tells_shift {duty k : Nat} (hpos : 0 < duty) (hduty : duty < 256) (hk : 0 < k) (hk' : k < 256) :
    ∃ q < 256, ¬ ((q + k) % 256 < duty ↔ q < duty) := by
  by_cases h : duty ≤ k
  · exact ⟨0, by decide, by omega⟩
  · exact ⟨255, by decide, by omega⟩

/-- Settles O37: the level is the compare at the phase, which 256 units restore and a shorter shift does not. -/
theorem speakerToneHasPeriod256 : Obligations.SpeakerToneHasPeriod256 := by
  refine fun b => ⟨fun n => ?period, fun hduty k hk hk' => ?shorter, spkO_tbs_of_duty_eq_zero⟩
  case period => rw [spkO_tbs, spkO_tbs, ← Nat.add_assoc, Nat.add_mod_right]
  case shorter =>
    have hpos : 0 < b.duty.toNat := Nat.pos_of_ne_zero fun h => hduty (BitVec.eq_of_toNat_eq h)
    obtain ⟨q, hq, htells⟩ := exists_phase_tells_shift hpos b.duty.isLt hk hk'
    obtain ⟨n, rfl⟩ := exists_tbs_to_phase b hq
    refine ⟨n, fun hsame => htells ?_⟩
    rwa [spkO_tbs, spkO_tbs, decide_eq_decide, ← Nat.add_assoc, ← Nat.mod_add_mod] at hsame

end Sys2Proof.Safety
end

section
/-! SUPPORT. Exceptions (60_exceptions.md): what raises the error response and what never does (R200 to R202), the
two orders of a pair of simultaneous events (R207), the CPU's halt on the platform (R206, R216). -/

namespace Sys2Proof.Safety

open Sys2Proof Sys2Proof.Machine

/-! ### The error response (60_exceptions.md R200 to R202) -/

/-- Settles O44: the step of an access that decode refuses is the error response. -/
theorem illegalAccessGetsTheErrorResponse : Obligations.IllegalAccessGetsTheErrorResponse :=
  ⟨fun _ _ _ _ hnext hdec => (step_of_nextEvent hnext).trans (access_error hdec _), rfl, rfl, rfl, rfl⟩

theorem perform_completes_of_legalEvent {e : Event} (h : legalEvent e = true) (s : State) :
    ∃ t, perform e s = .next t := by
  cases e with
  | tb | pin _ | reset => exact ⟨_, rfl⟩
  | bus d wdata =>
    obtain ⟨i, hdec⟩ := (exists_decode_ok_iff d wdata).2 h
    exact ⟨_, perform_of_decoded hdec s⟩

/-- Settles O45: every operation is answered by its `effect`, and a legal access is an operation's. -/
theorem legalOperationsNeverRaise : Obligations.LegalOperationsNeverRaise :=
  ⟨exec_completes, fun s hlegal => perform_completes_of_legalEvent hlegal (takeEvent s)⟩

theorem exists_runsTo_of_legal {es : List Event} (h : ∀ e ∈ es, legalEvent e = true) (s : State) :
    ∃ t, RunsTo es s t := by
  induction es generalizing s with
  | nil => exact ⟨s, (runsTo_nil s s).2 rfl⟩
  | cons e es ih =>
    obtain ⟨he, hes⟩ := List.forall_mem_cons.1 h
    obtain ⟨u, hu⟩ := perform_completes_of_legalEvent he s
    obtain ⟨t, ht⟩ := ih hes u
    exact ⟨t, (runsTo_cons _ _ _ _).2 ⟨u, hu, ht⟩⟩

theorem deliver_pending_to_emptied (s : State) : deliver s.pending { s with pending := [] } = s := by
  simp only [deliver, List.append_nil]

/-- Settles O53: the waiting events are a run from the state with none waiting, which keeps none waiting. -/
theorem legalScheduleRunsToItsEnd : Obligations.LegalScheduleRunsToItsEnd := by
  intro s hlegal
  obtain ⟨t, hrun⟩ := exists_runsTo_of_legal hlegal { s with pending := [] }
  refine ⟨t, ?_, (runsTo_keeps hrun).1⟩
  rwa [RunsTo, deliver_pending_to_emptied] at hrun

/-! ### Two events in a row -/

theorem runsTo_singleton_iff (e : Event) (s t : State) : RunsTo [e] s t ↔ perform e s = .next t := by
  simp only [runsTo_cons, runsTo_nil, exists_eq_right]

theorem runsTo_pair_iff {e e' : Event} {s u v : State} (h : perform e s = .next u) (h' : perform e' u = .next v)
    (t : State) : RunsTo [e, e'] s t ↔ v = t := by
  rw [runsTo_cons_of_perform h, runsTo_singleton_iff, h', Host.Outcome.next.injEq]

theorem firings_pair {e e' : Event} {s u v : State} (h : perform e s = .next u) (h' : perform e' u = .next v) :
    firings [e, e'] s = (firesIn e s).toNat + (firesIn e' u).toNat := by
  rw [firings_cons h, firings_cons h']
  rfl

theorem samples_pair {e e' : Event} {s u v : State} (h : perform e s = .next u) (h' : perform e' u = .next v) :
    samples [e, e'] s = sampleOf e s ++ sampleOf e' u := by
  rw [samples_cons h, samples_cons h']
  exact congrArg _ (List.append_nil _)

/-! ### PIN and a WAKE write (60_exceptions.md R207, 41_button.md R150, R152) -/

/-- A WAKE write with bit 1 set: PEND is cleared and ARM is bit 0. -/
theorem perform_wrWake_clearing {wdata : Word} (h : pendClearBit wdata = true) (s : State) :
    perform (.bus 0x1A4#9 wdata) s =
      .next { s with block := { s.block with arm := armBit wdata, pend := false }, resp := none } := by
  rw [perform_of_decoded (decode_wrWake wdata)]
  simp only [effect, answer, h, Bool.not_true, Bool.and_false]

/-- An edge after the arming fires, clearing ARM again; before it, the write leaves its own arming
alone. -/
theorem arming_and_edge_orders {s : State} {v : Bool} (hedge : v ≠ s.block.pin) (t : State) :
    (RunsTo [.bus 0x1A4#9 3, .pin v] s t → t.block.arm = false ∧ t.block.pend = true) ∧
    (RunsTo [.pin v, .bus 0x1A4#9 3] s t → t.block.arm = true ∧ t.block.pend = false) := by
  have hwrite := perform_wrWake_clearing (wdata := 3) rfl
  rw [runsTo_pair_iff (hwrite s) rfl, runsTo_pair_iff rfl (hwrite _)]
  constructor
  · rintro rfl
    simp [hedge, armBit]
  · rintro rfl
    exact ⟨rfl, rfl⟩

/-- A disarming write loses an edge after it, and clears what an edge before it fired. -/
theorem disarming_and_edge_orders {s t : State} {v : Bool} (hedge : v ≠ s.block.pin) (harm : s.block.arm = true) :
    (RunsTo [.bus 0x1A4#9 2, .pin v] s t →
      t.block.arm = false ∧ t.block.pend = false ∧ firings [.bus 0x1A4#9 2, .pin v] s = 0) ∧
    (RunsTo [.pin v, .bus 0x1A4#9 2] s t →
      t.block.arm = false ∧ t.block.pend = false ∧ firings [.pin v, .bus 0x1A4#9 2] s = 1) ∧
    (RunsTo [.pin v] s t → wakeIrq t.block = true) := by
  have hwrite := perform_wrWake_clearing (wdata := 2) rfl
  rw [runsTo_pair_iff (hwrite s) rfl, runsTo_pair_iff rfl (hwrite _), firings_pair (hwrite s) rfl,
    firings_pair rfl (hwrite _), runsTo_singleton_iff]
  have hfires : firesIn (.pin v) s = true := by simp [firesIn, hedge, harm]
  refine ⟨?writeFirst, ?edgeFirst, fun hrun => ?edgeAlone⟩
  case writeFirst =>
    rintro rfl
    simp [firesIn, armBit]
  case edgeFirst =>
    rintro rfl
    rw [hfires]
    exact ⟨rfl, rfl, rfl⟩
  case edgeAlone =>
    rw [wakeIrq, pend_of_perform hrun, hfires, Bool.or_true]
    rfl

/-! ### TB and a read of the time (60_exceptions.md R207) -/

theorem perform_rdTimeUs (s : State) (wdata : Word) :
    perform (.bus 0x080#9 wdata) s = .next { s with resp := some { reg := .timeUs, rdata := us s.block } } :=
  perform_of_decoded (decode_rdTimeUs wdata) s

theorem tb_and_rdTimeUs_orders (s t : State) (wdata : Word) :
    (RunsTo [.bus 0x080#9 wdata] s t → t.resp = some { reg := .timeUs, rdata := us s.block }) ∧
    (RunsTo [.tb, .bus 0x080#9 wdata] s t → t.resp = some { reg := .timeUs, rdata := us s.block + 1 }) := by
  rw [runsTo_singleton_iff, perform_rdTimeUs, runsTo_pair_iff rfl (perform_rdTimeUs _ wdata), ← us_tbBlock]
  constructor
  · intro hread
    obtain rfl := Host.Outcome.next.inj hread
    rfl
  · rintro rfl
    rfl

/-! ### A poll and TB or PIN (60_exceptions.md R207, 41_button.md R133, R134) -/

theorem perform_rdBtnPoll (s : State) (wdata : Word) :
    perform (.bus 0x090#9 wdata) s =
      .next { s with block := poll s.block, resp := answer .rdBtnPoll s.block } :=
  perform_of_decoded (decode_rdBtnPoll wdata) s

theorem sampleOf_rdBtnPoll (s : State) (wdata : Word) :
    sampleOf (.bus 0x090#9 wdata) s = if accepted s.block then [(s.block.status, s.block.pin)] else [] := by
  simp [sampleOf, (isPoll_iff_of_decoded (decode_rdBtnPoll wdata)).2 rfl]

/-- A change of level moves neither the time nor LAST. -/
theorem accepted_pinBlock (v : Bool) (b : Block) : accepted (pinBlock v b) = accepted b := by
  have hus : us (pinBlock v b) = us b := us_congr (pinBlock_ticks v b) (pinBlock_sub v b)
  rw [accepted, accepted, elapsed, elapsed, hus, pinBlock_last]

/-- One unit below the guard the poll is rejected, and the TB before it makes it accepted. -/
theorem tb_and_poll_orders {s : State} (hbelow : (elapsed s.block).toNat = 2999) (wdata : Word) :
    samples [.bus 0x090#9 wdata, .tb] s = [] ∧
    samples [.tb, .bus 0x090#9 wdata] s = [(s.block.status, s.block.pin)] := by
  have hbefore : ¬ accepted s.block = true := by
    rw [accepted_iff]
    omega
  have hafter : accepted (tbBlock s.block) = true := by
    rw [accepted_iff, elapsed_tbBlock, BitVec.toNat_add, hbelow]
    decide
  rw [samples_pair (perform_rdBtnPoll s wdata) rfl, samples_pair rfl (perform_rdBtnPoll _ wdata),
    sampleOf_rdBtnPoll, sampleOf_rdBtnPoll, if_neg hbefore, if_pos hafter, tbBlock_status, tbBlock_pin]
  exact ⟨rfl, rfl⟩

theorem pin_and_poll_orders {s : State} (hacc : accepted s.block = true) (wdata : Word) (v : Bool) :
    samples [.bus 0x090#9 wdata, .pin v] s = [(s.block.status, s.block.pin)] ∧
    samples [.pin v, .bus 0x090#9 wdata] s = [(s.block.status, v)] := by
  have hafter : accepted (pinBlock v s.block) = true := (accepted_pinBlock v s.block).trans hacc
  rw [samples_pair (perform_rdBtnPoll s wdata) rfl, samples_pair rfl (perform_rdBtnPoll _ wdata),
    sampleOf_rdBtnPoll, sampleOf_rdBtnPoll, if_pos hacc, if_pos hafter, pinBlock_status, pinBlock_pin]
  exact ⟨rfl, rfl⟩

/-! ### RESET and any event (60_exceptions.md R207, 70_reset_and_hazards.md R230) -/

/-- RESET keeps the level alone. -/
theorem resetBlock_congr {b c : Block} (h : b.pin = c.pin) : resetBlock b = resetBlock c := by
  rw [resetBlock, resetBlock, h]

theorem block_of_event_then_reset {e : Event} {s t : State} (hrun : RunsTo [e, .reset] s t) :
    t.block = resetBlock { s.block with pin := levelAfter s.block.pin [e] } := by
  obtain ⟨u, hu, hreset⟩ := (runsTo_cons _ _ _ _).1 hrun
  obtain rfl := Host.Outcome.next.inj ((runsTo_singleton_iff _ _ _).1 hreset)
  exact resetBlock_congr (pin_of_perform hu)

theorem dutyWrite_and_reset_orders (s t : State) (wdata : Word) :
    (RunsTo [.bus 0x19C#9 wdata, .reset] s t → t.block.duty = 0) ∧
    (RunsTo [.reset, .bus 0x19C#9 wdata] s t → t.block.duty.toNat = wdata.toNat % 256) := by
  rw [runsTo_pair_iff (perform_wrDuty s wdata) rfl, runsTo_pair_iff rfl (perform_wrDuty _ wdata)]
  constructor
  · rintro rfl
    rfl
  · rintro rfl
    exact dutyField_toNat wdata

/-- Settles O56: row by row, each order of a pair performed event by event. -/
theorem simultaneousEventOrdersDiffer : Obligations.SimultaneousEventOrdersDiffer :=
  ⟨fun _ t _ hedge _ => arming_and_edge_orders hedge t,
    fun _ _ _ hedge harm _ => disarming_and_edge_orders hedge harm, tb_and_rdTimeUs_orders,
    fun _ wdata hbelow => tb_and_poll_orders hbelow wdata,
    fun _ wdata v hacc => pin_and_poll_orders hacc wdata v,
    fun _ _ _ => block_of_event_then_reset, fun _ t e => runsTo_cons_of_perform rfl [e] t, dutyWrite_and_reset_orders⟩

end Sys2Proof.Safety

namespace Sys2Proof.Machine

/-! ### The CPU's halt (60_exceptions.md R206, R216) -/

theorem platformStep_of_perform {e : PlatformEvent} {ev : Event} {p : Platform} {m : State}
    (hev : blockEvent p.cpuHalted e = some ev) (hm : perform ev p.machine = .next m) :
    platformStep e p = .next { machine := m, cpuHalted := haltAfter p.cpuHalted e m.block } := by
  simp only [platformStep, hev, hm]

theorem platformStep_of_unseen {e : PlatformEvent} {p : Platform} (hev : blockEvent p.cpuHalted e = none) :
    platformStep e p = .next { p with cpuHalted := haltAfter p.cpuHalted e p.machine.block } := by
  simp only [platformStep, hev]

theorem haltAfter_halt (halted : Bool) (b : Block) : haltAfter halted .halt b = !wakeIrq b := by
  simp [haltAfter]

/-- A wake_irq asserted ends the halt, and prevents it. -/
theorem haltAfter_of_wakeIrq {b : Block} (h : wakeIrq b = true) (halted : Bool) (e : PlatformEvent) :
    haltAfter halted e b = false := by
  simp [haltAfter, h]

theorem platformStep_unit_tb {p : Platform} (h : blockEvent p.cpuHalted .unit = some .tb) :
    ∃ q, platformStep .unit p = .next q ∧ q.machine.block = tbBlock p.machine.block :=
  ⟨_, platformStep_of_perform h rfl, rfl⟩

theorem platformStep_halt (p : Platform) :
    ∃ q, platformStep .halt p = .next q ∧ q.machine.block = p.machine.block ∧
      q.cpuHalted = !wakeIrq p.machine.block :=
  ⟨_, platformStep_of_unseen rfl, rfl, haltAfter_halt _ _⟩

theorem platformStep_unit_halted {p : Platform} (hhalted : p.cpuHalted = true) :
    ∃ q, platformStep .unit p = .next q ∧
      (Config.tbRunsInSleep = true → q.machine.block = tbBlock p.machine.block) ∧
      (Config.tbRunsInSleep = false → q.machine.block = p.machine.block) := by
  cases hruns : Config.tbRunsInSleep with
  | true =>
    obtain ⟨q, hq, hblock⟩ := platformStep_unit_tb (p := p) (by simp [blockEvent, hruns])
    exact ⟨q, hq, fun _ => hblock, nofun⟩
  | false =>
    have hunseen : blockEvent p.cpuHalted .unit = none := by simp [blockEvent, hhalted, hruns]
    exact ⟨_, platformStep_of_unseen hunseen, nofun, fun _ => rfl⟩

theorem platformStep_unit_running {p : Platform} (hrunning : p.cpuHalted = false) :
    ∃ q, platformStep .unit p = .next q ∧ q.machine.block = tbBlock p.machine.block :=
  platformStep_unit_tb (by simp [blockEvent, hrunning])

theorem platformStep_armed_edge {p : Platform} (harm : p.machine.block.arm = true) :
    ∃ q, platformStep (.pin (!p.machine.block.pin)) p = .next q ∧ q.cpuHalted = false ∧
      q.machine.block = { p.machine.block with pin := !p.machine.block.pin, arm := false, pend := true } := by
  have hfires := Safety.pinBlock_of_fires ⟨Bool.not_ne_self p.machine.block.pin, harm⟩
  refine ⟨_, platformStep_of_perform rfl rfl, haltAfter_of_wakeIrq ?_ _ _, hfires⟩
  exact congrArg Block.pend hfires

/-- Settles O58: the halt reaches the block in no event, a unit in it as TB_RUNS_IN_SLEEP says, and a firing's wake_irq
ends it. -/
theorem haltKeepsTheBlockAndTheWake : Obligations.HaltKeepsTheBlockAndTheWake :=
  ⟨platformStep_halt, fun _ => platformStep_unit_halted, fun _ => platformStep_unit_running,
    fun _ => platformStep_armed_edge⟩

end Sys2Proof.Machine
end

section
/-! SUPPORT. Reset and hazards (70_reset_and_hazards.md): what RESET leaves (R230), how long after an accepted sample the next
one can come (R242) and cannot come (R243), the wake handshake without a press (R235). -/

namespace Sys2Proof.Safety

open Sys2Proof Sys2Proof.Machine

/-! ### RESET (70_reset_and_hazards.md R230, 10_state.md R42) -/

/-- Settles O1: the step ends in `resetBlock`, whose counters are 0. -/
theorem resetEventSetsEveryFieldButPin : Obligations.ResetEventSetsEveryFieldButPin := fun s hnext =>
  ⟨_, step_of_reset hnext, rfl, us_of_fullTime (fullTime_resetBlock s.block)⟩

/-! ### The guard after an accepted sample (70_reset_and_hazards.md R243) -/

/-- Settles O24: the run is too short for a sample, and without one STATUS stays; Released has one successor. -/
theorem statusLastsAGuardAfterASample : Obligations.StatusLastsAGuardAfterASample := by
  refine ⟨fun s t es hlast hrestart hshort hrun => ?_, fun s t => rdBtnPoll_of_released⟩
  have hsamples := samples_of_run_after_sample hrestart hrun hlast hshort
  obtain ⟨hstatus, -, -⟩ := debouncer_of_unsampled_run hrestart hrun hsamples
  exact ⟨hstatus, hsamples⟩

/-! ### The gap between two accepted samples (70_reset_and_hazards.md R242) -/

theorem tbCount_append (es es' : List Event) : tbCount (es ++ es') = tbCount es + tbCount es' :=
  List.countP_append

theorem tbCount_singleton_le_one (e : Event) : tbCount [e] ≤ 1 := List.countP_le_length

/-- The TB events come one by one, so some first part of a run holds any number of them up to their count. -/
theorem exists_split_of_le_tbCount {n : Nat} {es : List Event} (h : n ≤ tbCount es) :
    ∃ a r, es = a ++ r ∧ tbCount a = n := by
  induction es generalizing n with
  | nil => exact ⟨[], [], rfl, (Nat.le_zero.1 h).symm⟩
  | cons e es ih =>
    obtain rfl | hpos := Nat.eq_zero_or_pos n
    · exact ⟨[], e :: es, rfl, rfl⟩
    · have hcount := tbCount_cons e es
      have hle := tbCount_singleton_le_one e
      obtain ⟨a, r, rfl, ha⟩ := ih (n := n - tbCount [e]) (by omega)
      refine ⟨e :: a, r, rfl, ?_⟩
      rw [tbCount_cons, ha]
      omega

theorem no_poll_or_first_poll (es : List Event) :
    (∀ e ∈ es, isPoll e = false) ∨
      ∃ m p c, es = m ++ p :: c ∧ (∀ e ∈ m, isPoll e = false) ∧ isPoll p = true := by
  cases hfind : es.find? isPoll with
  | none => exact .inl (by simpa using hfind)
  | some p =>
    obtain ⟨hp, m, c, rfl, hm⟩ := List.find?_eq_some_iff_append.1 hfind
    exact .inr ⟨m, p, c, rfl, by simpa using hm, hp⟩

/-- A poll after the guard, and before the elapsed time wraps, takes a sample. -/
theorem samples_ne_nil_of_late_poll {x c : List Event} {p : Event} {s t : State} (hlast : s.block.last = us s.block)
    (hrestart : ∀ e ∈ x, restartsDebouncer e = false) (hpoll : isPoll p = true) (hlate : 3000 ≤ tbCount x)
    (hwrap : tbCount x < 2 ^ 32) (hrun : RunsTo (x ++ p :: c) s t) : samples (x ++ p :: c) s ≠ [] := by
  obtain ⟨u, hu, hrest⟩ := (runsTo_append _ _ _ _).1 hrun
  obtain ⟨v, hv, -⟩ := (runsTo_cons _ _ _ _).1 hrest
  rw [samples_append hu, samples_cons hv]
  intro hnil
  obtain ⟨hbefore, hafter⟩ := List.append_eq_nil_iff.1 hnil
  have hnone : sampleOf p u = [] := (List.append_eq_nil_iff.1 hafter).1
  obtain ⟨-, hacc⟩ := elapsedTimeAliasesAfterALongGap.1 s u x hlast hrestart hu hbefore
  rw [Nat.mod_eq_of_lt hwrap] at hacc
  simp [sampleOf, hpoll, hacc.2 hlate] at hnone

/-- Settles O23: of the part of the run after 3000 TB events, the stretch before its first poll holds at most q, and that
poll would be accepted; so the part has no poll and is itself such a stretch. -/
theorem pollRateBoundsTheSampleGap : Obligations.PollRateBoundsTheSampleGap := by
  intro s t es q hq hlast hrestart hrun hstretch hsamples
  obtain hshort | hlong := Nat.le_total (tbCount es) 3000
  · omega
  obtain ⟨a, r, rfl, ha⟩ := exists_split_of_le_tbCount hlong
  obtain hnoPoll | ⟨m, p, c, rfl, hm, hpoll⟩ := no_poll_or_first_poll r
  · have hr := hstretch a r [] (List.append_nil _).symm hnoPoll
    rw [tbCount_append]
    omega
  · rw [← List.append_assoc] at hrestart hrun hstretch hsamples
    have hgap := hstretch a m (p :: c) rfl hm
    have hcount := tbCount_append a m
    exact absurd hsamples (samples_ne_nil_of_late_poll hlast (List.forall_mem_append.1 hrestart).1 hpoll (by omega)
      (by omega) hrun)

/-! ### The block without a press (70_reset_and_hazards.md R235, 41_button.md R132) -/

/-- The button is up and no press is in progress. -/
structure IdleHigh (b : Block) : Prop where
  pin : b.pin = true
  status : b.status = .idle

namespace IdleHigh

variable {b : Block}

theorem afterTb (h : IdleHigh b) : IdleHigh (tbBlock b) :=
  ⟨(tbBlock_pin b).trans h.pin, (tbBlock_status b).trans h.status⟩

theorem afterPinHigh (h : IdleHigh b) : IdleHigh (pinBlock true b) :=
  ⟨pinBlock_pin true b, (pinBlock_status true b).trans h.status⟩

theorem afterReset (h : IdleHigh b) : IdleHigh (resetBlock b) :=
  ⟨(resetBlock_pin b).trans h.pin, resetBlock_status b⟩

theorem poll_status_eq (h : IdleHigh b) : (poll b).status = .idle := by
  simp [h.pin, h.status, nextStatus]

theorem afterEffect (h : IdleHigh b) (i : Instr) : IdleHigh (effect i b) := by
  refine ⟨(effect_pin i b).trans h.pin, ?_⟩
  cases i with
  | rdTimeUs | rdTimeMs | rdTicks | rdSubtick | rdBtnStatus | rdSpk | rdWake => exact h.status
  | rdBtnPoll => exact h.poll_status_eq
  | wrBtnCtrl wdata =>
    simp only [effect]
    split
    · exact btnReset_status b
    · exact h.status
  | wrDuty _ | wrSpk _ | wrWake _ => exact h.status

theorem afterPerform {e : Event} {s t : State} (h : IdleHigh s.block) (hlow : e ≠ .pin false)
    (hperform : perform e s = .next t) : IdleHigh t.block := by
  obtain ⟨-, rfl⟩ | ⟨v, rfl, rfl⟩ | ⟨-, rfl⟩ | ⟨d, wdata, i, -, -, rfl⟩ := perform_cases hperform
  · exact h.afterTb
  · cases v with
    | false => exact absurd rfl hlow
    | true => exact h.afterPinHigh
  · exact h.afterReset
  · exact h.afterEffect i

theorem afterRun {es : List Event} {s t : State} (h : IdleHigh s.block) (hlow : ∀ e ∈ es, e ≠ .pin false)
    (hrun : RunsTo es s t) : IdleHigh t.block := by
  induction es generalizing s with
  | nil => exact (runsTo_nil s t).1 hrun ▸ h
  | cons e es ih =>
    obtain ⟨u, hu, hrest⟩ := (runsTo_cons _ _ _ _).1 hrun
    obtain ⟨he, hes⟩ := List.forall_mem_cons.1 hlow
    exact ih (h.afterPerform he hu) hes hrest

end IdleHigh

/-! ### The wake handshake's loop without a press (70_reset_and_hazards.md R234, R235) -/

/-- A script's run with no press in progress and none scheduled. -/
structure NoPress (st : ScriptState) : Prop where
  schedule : st.schedule = []
  block : IdleHigh st.machine.block

/-- The body of the handshake's loop (`handshakeLoop_eq`). -/
def handshakeRound (n : Nat) : Script := .line (.wait n) (.line (.pseudo .poll (some 0)) .done)

/-- The status bits of the word polled are Released's code: the loop's condition (`handshakeLoop_eq`). -/
def readsReleased : Cond := .eq (.slice 0 1 0) (.const 3)

theorem handshakeLoop_eq (n : Nat) : handshakeLoop n = .repeatUntil (handshakeRound n) readsReleased .done := rfl

theorem deliver_of_perform {e : Event} {st : ScriptState} {m : State} (h : perform e st.machine = .next m) :
    st.deliver e = .finished { st with machine := m } := by
  simp [ScriptState.deliver, h]

theorem waitUnits_of_noPress (n : Nat) {st : ScriptState} (h : NoPress st) :
    ∃ st', waitUnits n st = .finished st' ∧ NoPress st' := by
  induction n generalizing st with
  | zero => exact ⟨st, rfl, h⟩
  | succ n ih =>
    rw [waitUnits, deliver_of_perform rfl, h.schedule]
    exact ih ⟨rfl, h.block.afterTb⟩

theorem runLine_poll_of_noPress {st : ScriptState} (h : NoPress st) :
    ∃ st', runLine (.pseudo .poll (some 0)) st = .finished st' ∧ NoPress st' ∧
      st'.lookup 0 = buttonWord true .idle := by
  have hword : buttonWord st.machine.block.pin (poll st.machine.block).status = buttonWord true .idle := by
    rw [h.block.pin, h.block.poll_status_eq]
  exact ⟨_, rfl, ⟨h.schedule, h.block.afterEffect .rdBtnPoll⟩, hword⟩

/-- The status the handshake waits for is not the one a poll without a press reads. -/
theorem not_readsReleased_of_lookup_idle {st : ScriptState} (h : st.lookup 0 = buttonWord true .idle) :
    readsReleased.holds st = false := by
  simp only [readsReleased, Cond.holds, Term.eval, h, buttonWord_toNat]
  rfl

/-- One round of the loop: the bound is too small for it, or the poll reads Idle. -/
theorem runScript_handshakeRound (fuel n : Nat) {st : ScriptState} (h : NoPress st) :
    runScript fuel (handshakeRound n) st = .outOfFuel ∨
      ∃ st', runScript fuel (handshakeRound n) st = .finished st' ∧ NoPress st' ∧ readsReleased.holds st' = false := by
  obtain ⟨u, hu, hwaited⟩ := waitUnits_of_noPress n h
  obtain ⟨v, hv, hpolled, hword⟩ := runLine_poll_of_noPress hwaited
  have hwait : runLine (.wait n) st = .finished u := hu
  match fuel with
  | 0 => exact .inl rfl
  | 1 | 2 => exact .inl (by simp only [handshakeRound, runScript, hwait, hv, ScriptResult.andThen])
  | fuel + 3 =>
    exact .inr ⟨v, by simp only [handshakeRound, runScript, hwait, hv, ScriptResult.andThen], hpolled,
      not_readsReleased_of_lookup_idle hword⟩

theorem runScript_handshakeLoop (fuel n : Nat) {st : ScriptState} (h : NoPress st) :
    runScript fuel (handshakeLoop n) st = .outOfFuel := by
  induction fuel generalizing st with
  | zero => rfl
  | succ fuel ih =>
    rw [handshakeLoop_eq, runScript]
    obtain hout | ⟨st', hround, hst', hcond⟩ := runScript_handshakeRound fuel n h
    · rw [hout]
      rfl
    · rw [hround, ScriptResult.andThen, hcond]
      exact ih hst'

/-- Settles O60: every round of the loop, and every event but a low level, keeps the line high and STATUS Idle. -/
theorem handshakeWithoutAPressNeverEnds : Obligations.HandshakeWithoutAPressNeverEnds :=
  ⟨fun fuel n _ hschedule hpin hidle => runScript_handshakeLoop fuel n ⟨hschedule, hpin, hidle⟩,
    fun _ _ _ hlow hpin hidle hrun => (IdleHigh.afterRun ⟨hpin, hidle⟩ hlow hrun).status⟩

end Sys2Proof.Safety
end
